-- ==== Sys2Proof/Word.lean ====
section
/-! DEFINITION. The word types of the frame engine (spec/00_scope.md R9): wire bytes and responses are
8 bits, command words 16 bits, every value unsigned (R10). -/

namespace Sys2Proof

/-- A wire byte, a buffer entry or a command response: 8 bits (R9). -/
abbrev Byte := BitVec 8

/-- A host command word: 16 bits (R9, R71). -/
abbrev Word := BitVec 16

end Sys2Proof
end

