-- ==== Sys2Proof/Syntax.lean ====
section
/-! DEFINITION. The host commands of spec/30_encoding.md R72, one constructor per row of the opcode
table, with the operands of R75. -/

namespace Sys2Proof

/-- A host command (R72). A byte operand is the word's D field; `w` of `encSend` is FL[0]. -/
inductive Instr where
  /-- NOP (R195). -/
  | nop
  /-- ACC_RESET (R102). -/
  | accReset
  /-- ACC_ADD d8 (R103). -/
  | accAdd (d : Byte)
  /-- ACC_READ (R104). -/
  | accRead
  /-- ADDR_WR n (R120). -/
  | addrWr (n : Byte)
  /-- ADDR_RD (R121). -/
  | addrRd
  /-- VAL_CLR (R123). -/
  | valClr
  /-- VAL_PUSH c (R124). -/
  | valPush (c : Byte)
  /-- ENC_SEND r|w, c (R130); `w = true` is a write (R74). -/
  | encSend (w : Bool) (c : Byte)
  /-- DEC_START (R150). -/
  | decStart
  /-- STAT_RD (R196). -/
  | statRd
  /-- PLEN_RD (R170). -/
  | plenRd
  /-- PBUF_RD i (R171). -/
  | pbufRd (i : Byte)
  /-- ERRC_RD (R197). -/
  | errcRd
  deriving DecidableEq, Repr

end Sys2Proof
end

