-- ==== Sys2Proof/Decode.lean ====
section
/-! DEFINITION. The command word: its fields, its decoder (total on the 65536 words, rejecting by name)
and its encoder, from spec/30_encoding.md R71 to R77 and spec/opcode_table.json. -/

namespace Sys2Proof

/-- Why a word is illegal (R73). -/
inductive Illegal where
  /-- `OP` is 0xE or 0xF. -/
  | reservedOpcode
  /-- A reserved bit of `FL` or `D` is set. -/
  | reservedField
  deriving DecidableEq, Repr

/-- `OP`, bits 15:12 (R71). -/
def opField (w : Word) : BitVec 4 := w.extractLsb' 12 4

/-- `FL`, bits 11:8 (R71). -/
def flField (w : Word) : BitVec 4 := w.extractLsb' 8 4

/-- `D`, bits 7:0 (R71). -/
def dField (w : Word) : Byte := w.extractLsb' 0 8

/-- A command whose FL and D must both be zero (R72). -/
def bareCommand (w : Word) (i : Instr) : Except Illegal Instr :=
  if flField w = 0 ∧ dField w = 0 then .ok i else .error .reservedField

/-- A command whose FL must be zero and whose D is the operand (R72). -/
def byteCommand (w : Word) (i : Byte → Instr) : Except Illegal Instr :=
  if flField w = 0 then .ok (i (dField w)) else .error .reservedField

/-- ENC_SEND: FL[3:1] must be zero, FL[0] is W, D the letter (R74). -/
def sendCommand (w : Word) : Except Illegal Instr :=
  if (flField w).extractLsb' 1 3 = 0 then .ok (.encSend ((flField w).getLsbD 0) (dField w))
  else .error .reservedField

/-- The decoder: `OP` chooses the row, then the reserved bits are checked (R77). -/
def decode (w : Word) : Except Illegal Instr :=
  match (opField w).toNat with
  | 0x0 => bareCommand w .nop
  | 0x1 => bareCommand w .accReset
  | 0x2 => byteCommand w .accAdd
  | 0x3 => bareCommand w .accRead
  | 0x4 => byteCommand w .addrWr
  | 0x5 => bareCommand w .addrRd
  | 0x6 => bareCommand w .valClr
  | 0x7 => byteCommand w .valPush
  | 0x8 => sendCommand w
  | 0x9 => bareCommand w .decStart
  | 0xA => bareCommand w .statRd
  | 0xB => bareCommand w .plenRd
  | 0xC => byteCommand w .pbufRd
  | 0xD => bareCommand w .errcRd
  | _ => .error .reservedOpcode

/-- A word from its three fields (R71). -/
def wordOf (op fl : BitVec 4) (d : Byte) : Word := op ++ fl ++ d

/-- The encoder (R72, R74, and the "Encoding" line of each command's rule). -/
def encode : Instr → Word
  | .nop => wordOf 0x0 0 0
  | .accReset => wordOf 0x1 0 0
  | .accAdd d => wordOf 0x2 0 d
  | .accRead => wordOf 0x3 0 0
  | .addrWr n => wordOf 0x4 0 n
  | .addrRd => wordOf 0x5 0 0
  | .valClr => wordOf 0x6 0 0
  | .valPush c => wordOf 0x7 0 c
  | .encSend w c => wordOf 0x8 (if w then 1 else 0) c
  | .decStart => wordOf 0x9 0 0
  | .statRd => wordOf 0xA 0 0
  | .plenRd => wordOf 0xB 0 0
  | .pbufRd i => wordOf 0xC 0 i
  | .errcRd => wordOf 0xD 0 0

/-- One row of spec/opcode_table.json. -/
structure Row where
  mnemonic : String
  mask : Word
  pattern : Word
  deriving DecidableEq, Repr

/-- The word has the row's fixed bits. -/
def Row.covers (r : Row) (w : Word) : Bool := w &&& r.mask == r.pattern

/-- spec/opcode_table.json, row by row. -/
def opcodeTable : List Row :=
  [ ⟨"NOP", 0xFFFF, 0x0000⟩, ⟨"ACC_RESET", 0xFFFF, 0x1000⟩, ⟨"ACC_ADD", 0xFF00, 0x2000⟩,
    ⟨"ACC_READ", 0xFFFF, 0x3000⟩, ⟨"ADDR_WR", 0xFF00, 0x4000⟩, ⟨"ADDR_RD", 0xFFFF, 0x5000⟩,
    ⟨"VAL_CLR", 0xFFFF, 0x6000⟩, ⟨"VAL_PUSH", 0xFF00, 0x7000⟩, ⟨"ENC_SEND", 0xFE00, 0x8000⟩,
    ⟨"DEC_START", 0xFFFF, 0x9000⟩, ⟨"STAT_RD", 0xFFFF, 0xA000⟩, ⟨"PLEN_RD", 0xFFFF, 0xB000⟩,
    ⟨"PBUF_RD", 0xFF00, 0xC000⟩, ⟨"ERRC_RD", 0xFFFF, 0xD000⟩ ]

/-- The mnemonic of a command (R72). -/
def Instr.mnemonic : Instr → String
  | .nop => "NOP"
  | .accReset => "ACC_RESET"
  | .accAdd _ => "ACC_ADD"
  | .accRead => "ACC_READ"
  | .addrWr _ => "ADDR_WR"
  | .addrRd => "ADDR_RD"
  | .valClr => "VAL_CLR"
  | .valPush _ => "VAL_PUSH"
  | .encSend _ _ => "ENC_SEND"
  | .decStart => "DEC_START"
  | .statRd => "STAT_RD"
  | .plenRd => "PLEN_RD"
  | .pbufRd _ => "PBUF_RD"
  | .errcRd => "ERRC_RD"

/-- The instruction the decoder reads from the low `nbits` bits `w`, numbered as
spec/opcode_table.json numbers them; the bits above are zero. Every command is one 16-bit word (R71),
which has no byte order inside the block (R56). -/
def decodeTableWord (nbits w : Nat) : Option Instr :=
  (decode (BitVec.ofNat 16 (w % 2 ^ nbits))).toOption

end Sys2Proof
end

