-- ==== Sys2Proof/Config.lean ====
section
/-! DEFINITION. What an implementation fixes: the build-time parameters of spec/00_scope.md R7, R8, and
the one value the spec leaves free (R135, I5). -/

namespace Sys2Proof

/-- `TX_TERM`, the line terminator the encoder sends: one of `[0x0D]`, `[0x0A]`, `[0x0D, 0x0A]` (R7). -/
inductive TxTerm where
  | cr
  | lf
  | crlf
  deriving DecidableEq, Repr

/-- The parameters "a model takes as arguments" (R7). They are build-time values: no command and no
event changes one (R8). `TIME_UNIT` is 1 ms and is only the unit in which timestamps are read. -/
structure Params where
  /-- `JUNK_BUDGET`: junk bytes whose arrival in SEEK ends the attempt. -/
  junkBudget : Nat
  /-- `CHAR_TIMEOUT`: the per-character timeout, in ms. -/
  charTimeout : Nat
  /-- `PAYLOAD_CAP`: capacity of PBUF in bytes (OPEN in R7). -/
  payloadCap : Nat
  /-- `SETTLE_DELAY`: delay after a validated frame, in ms (OPEN in R7). -/
  settleDelay : Nat
  /-- `VALUE_MAX`: capacity of VBUF in bytes. -/
  valueMax : Nat
  /-- `TX_TERM`. -/
  txTerm : TxTerm
  /-- `RESET_ADDR`: ADDR after reset. -/
  resetAddr : Nat
  deriving DecidableEq, Repr

/-- The ranges R7 gives the parameters. -/
def Params.wf (p : Params) : Bool :=
  1 ≤ p.junkBudget && 1 ≤ p.charTimeout &&
  1 ≤ p.payloadCap && p.payloadCap ≤ 255 &&
  1 ≤ p.valueMax && p.valueMax ≤ 255 &&
  1 ≤ p.resetAddr && p.resetAddr ≤ 99

namespace Config

/-- The values R7 assigns; for the two OPEN parameters the values spec/95_test_vectors.md assumes
(PAYLOAD_CAP 12, SETTLE_DELAY 0).
DESIGN CHOICE (unsafe, entry 1): the spec leaves those two open. No statement rests on them. -/
def vectorParams : Params :=
  { junkBudget := 32, charTimeout := 500, payloadCap := 12, settleDelay := 0
    valueMax := 10, txTerm := .crlf, resetAddr := 1 }

/-- `draw(0..25)` of R135: ACC after a transmit failure in BODY. A free value: no body, so nothing is
known of it but its range. `State.draws` selects a fresh one each time (safe, entry 4). -/
opaque freeAcc : Nat → Fin 26

end Config

end Sys2Proof
end

