-- ==== Sys2Proof/Machine/State.lean ====
section
/-! DEFINITION. The machine's state as plain data: every register, buffer and latch of
spec/10_state.md, the transport's two queues (R65, R66), the pending inputs (R90), and the reset
state (R44). -/

namespace Sys2Proof.Machine

/-- Why the MODEL stops with a fault. The block itself has no trap (R214): all its errors are result
codes. No state with the invariant of Sys2Proof/Safety.lean raises one. -/
inductive Fault where
  /-- A buffer entry that holds no value was read (R44, I6). Raised by reads of VBUF and PBUF. Safe. -/
  | unwrittenRead
  /-- A buffer index at or past the buffer's capacity: no such entry exists (R50). Raised by reads and
  writes of VBUF and PBUF. Safe. -/
  | bufferRange
  /-- A byte past the end of the frame's body or terminator was asked for (R131, R40). Raised by the
  transmit port. Safe. -/
  | frameIndexRange
  deriving DecidableEq, Repr

/-- Why the MODEL has no step. All but `notModelled` are inputs that break the environment's contract
(R91, R92, R221, R228, I13). -/
inductive Refusal where
  /-- An instruction without a meaning yet. No arm raises it. Safe. -/
  | notModelled (mnemonic : String)
  /-- An event's timestamp lies below T_PREV (R91 step 1). Raised before every event but RESET. Safe. -/
  | timeRunsBackwards
  /-- A TX_ACK while ENC_PH = IDLE: no byte was offered (R92). Raised by TX_ACK. Safe. -/
  | ackWithoutByte
  /-- RX_NONE while a byte waits in the receive queue (R228, I13). Raised by RX_NONE. Safe. -/
  | noneWhileByteWaits
  /-- RX_OFFER of a byte that is not the receive queue's head (R65, R228). Raised by RX_OFFER. Safe.
  DEDUCED (entry 7). -/
  | offerNotHead
  deriving DecidableEq, Repr

/-- `ENC_PH` (R26). -/
inductive EncPhase where
  | idle
  | body
  | ck
  | term
  deriving DecidableEq, Repr

/-- `ENC_RESULT` (R27); the code 3 is never produced and has no value here (I12, entry 10). -/
inductive EncResult where
  | none
  | sent
  | txError
  deriving DecidableEq, Repr

/-- `DEC_ST` (R28). -/
inductive DecState where
  | idle
  | seek
  | addrHi
  | addrLo
  | payload
  | swallow
  | settle
  deriving DecidableEq, Repr

/-- `DEC_RESULT` (R32); the code 7 is never produced and has no value here (I12, entry 10). -/
inductive DecResult where
  | none
  | frameOk
  | timeout
  | junkOverflow
  | addressMismatch
  | checksumError
  | malformedFrame
  deriving DecidableEq, Repr

/-- `CMD_CAUSE` (R36); the codes 6..255 are never produced and have no value here (I12, entry 10). -/
inductive Cause where
  | none
  | illegal
  | busy
  | badOperand
  | bufFull
  | indexRange
  deriving DecidableEq, Repr

/-- The events at the ports (R90). -/
inductive Event where
  /-- `CMD(w)`: the host presents a command word. -/
  | cmd (w : Word)
  /-- `TX_ACK(ok)` or `TX_ACK(fail)`. -/
  | txAck (ok : Bool)
  /-- `RX_OFFER(b)`: the receive queue's head is offered. -/
  | rxOffer (b : Byte)
  /-- `RX_NONE`: the receive queue is empty now. -/
  | rxNone
  /-- `TICK`: time has advanced. -/
  | tick
  /-- `RESET` (R240). -/
  | reset
  deriving DecidableEq, Repr

/-- One input of the environment: an event with its timestamp (R90), and the bytes that arrived at the
transport's receive queue since the event before it (R65; entry 7). -/
structure Input where
  time : Nat
  arrived : List Byte
  event : Event
  deriving DecidableEq, Repr

/-- A byte buffer: (index, byte) pairs, indices strictly rising. An unlisted index holds no value
(R44, entry 3). -/
abbrev Memory := List Host.Cell

/-- The state of the block, of the transport it is connected to, and the inputs still to come. -/
structure State where
  /-- The build-time parameters (R7, R8). The model's own field: no step changes it (entry 1). -/
  params : Params
  /-- ACC (R23). -/
  acc : BitVec 5
  /-- ADDR, the Device Identity (R24). -/
  addr : BitVec 7
  /-- VBUF (R25). -/
  vbuf : Memory
  /-- VLEN (R25). -/
  vlen : Nat
  /-- ENC_PH (R26). -/
  encPh : EncPhase
  /-- ENC_I (R26). -/
  encI : Nat
  /-- ENC_W (R26): `true` for a write. -/
  encW : Bool
  /-- ENC_CMD (R26). -/
  encCmd : Byte
  /-- ENC_RESULT (R27). -/
  encResult : EncResult
  /-- DEC_ST (R28). -/
  decSt : DecState
  /-- JUNK (R29). -/
  junk : Nat
  /-- AH (R30). -/
  ah : Byte
  /-- PBUF (R31). -/
  pbuf : Memory
  /-- PLEN (R31). -/
  plen : Nat
  /-- DEC_RESULT (R32). -/
  decResult : DecResult
  /-- LAST_T (R33). -/
  lastT : Nat
  /-- SET_T0 (R34). -/
  setT0 : Nat
  /-- T_PREV (R35). -/
  tPrev : Nat
  /-- CMD_ERR (R36). -/
  cmdErr : Bool
  /-- CMD_CAUSE (R36). -/
  cmdCause : Cause
  /-- RESP (R37). -/
  resp : Byte
  /-- Draws made so far: selects the next free value. The model's own field (entry 4). -/
  draws : Nat
  /-- The transport's receive queue, head first (R65). -/
  rxQueue : List Byte
  /-- The bytes the transport accepted, oldest first (R66, entry 8). -/
  txSent : List Byte
  /-- The inputs to come, next one first. The model's own field (entry 5). -/
  inputs : List Input
  deriving DecidableEq, Repr

/-- The block after reset (R44) built with the parameters `p`, its transport empty and no input
presented. The entries R44 calls unspecified hold zero (DESIGN CHOICE, unsafe, entry 2); the buffers
hold no value (entry 3). -/
def State.resetWith (p : Params) : State :=
  { params := p
    acc := 0, addr := BitVec.ofNat 7 p.resetAddr
    vbuf := [], vlen := 0
    encPh := .idle, encI := 0, encW := false, encCmd := 0, encResult := .none
    decSt := .idle, junk := 0, ah := 0, pbuf := [], plen := 0, decResult := .none
    lastT := 0, setT0 := 0, tPrev := 0
    cmdErr := false, cmdCause := .none, resp := 0
    draws := 0, rxQueue := [], txSent := [], inputs := [] }

/-- The machine right after reset (R44), with the parameters of spec/95_test_vectors.md (entry 1). -/
def State.reset : State := State.resetWith Config.vectorParams

end Sys2Proof.Machine
end

