-- ==== Sys2Proof/Machine/Flags.lean ====
section
/-! DEFINITION. The flags and results a command reads or writes: ENC_BUSY and DEC_BUSY
(spec/10_state.md R39), the result codes (R27, R32, R36), the STATUS view (R38), and the command-error
update (spec/43_control.md R193). -/

namespace Sys2Proof.Machine

/-- ENC_BUSY = (ENC_PH ≠ IDLE) (R39). -/
def encBusy (s : State) : Bool := s.encPh != .idle

/-- DEC_BUSY = (DEC_ST ≠ IDLE) (R39). -/
def decBusy (s : State) : Bool := s.decSt != .idle

/-- Either engine runs: the interlock of ACC_RESET, ACC_ADD, ADDR_WR, ENC_SEND and DEC_START (R250). -/
def anyBusy (s : State) : Bool := encBusy s || decBusy s

/-- The codes of ENC_RESULT (R27). -/
def encResultCode : EncResult → Byte
  | .none => 0
  | .sent => 1
  | .txError => 2

/-- The codes of DEC_RESULT (R32). -/
def decResultCode : DecResult → Byte
  | .none => 0
  | .frameOk => 1
  | .timeout => 2
  | .junkOverflow => 3
  | .addressMismatch => 4
  | .checksumError => 5
  | .malformedFrame => 6

/-- The codes of CMD_CAUSE (R36). -/
def causeCode : Cause → Byte
  | .none => 0
  | .illegal => 1
  | .busy => 2
  | .badOperand => 3
  | .bufFull => 4
  | .indexRange => 5

/-- One bit as a byte. -/
def bitByte (b : Bool) : Byte := if b then 1 else 0

/-- STATUS (R38, R196). -/
def status (s : State) : Byte :=
  bitByte (encBusy s) ||| bitByte (decBusy s) <<< 1 ||| encResultCode s.encResult <<< 2 |||
  decResultCode s.decResult <<< 4 ||| bitByte s.cmdErr <<< 7

/-- `accept(r)` by any command but STAT_RD and ERRC_RD (R193). -/
def accept (r : Byte) (s : State) : State :=
  { s with cmdErr := false, cmdCause := .none, resp := r }

/-- `accept(r)` by STAT_RD and ERRC_RD: only RESP is written (R193). -/
def acceptQuietly (r : Byte) (s : State) : State := { s with resp := r }

/-- `refuse(c)`: the command is not carried out (R13, R193). This is the block's one way to report a
command error: it has no exceptions to take (R214). -/
def refuse (c : Cause) (s : State) : State :=
  { s with cmdErr := true, cmdCause := c, resp := 0 }

end Sys2Proof.Machine
end

