-- ==== Sys2Proof/Machine/Operands.lean ====
section
/-! DEFINITION. Bytes on the wire and in operands: the ASCII codes and classes of spec/30_encoding.md
R84, R85, the legal operand values R76, the checksum letter (spec/40_checksum.md R100, R101), the
address digits (spec/41_encoder.md R122) and the request's fields (R83, R131). -/

namespace Sys2Proof.Machine

/-- LF (R84). -/
def asciiLF : Byte := 0x0A
/-- CR (R84). -/
def asciiCR : Byte := 0x0D
/-- The frame-start marker `:` (R84). -/
def asciiColon : Byte := 0x3A
/-- The read marker `r` (R84, R74). -/
def asciiRead : Byte := 0x72
/-- The write marker `s` (R84, R74). -/
def asciiWrite : Byte := 0x73

/-- UPPER, 0x41..0x5A (R85). -/
def isUpper (b : Byte) : Bool := 0x41 ≤ b.toNat && b.toNat ≤ 0x5A

/-- NEWLINE, CR or LF (R85). -/
def isNewline (b : Byte) : Bool := b == asciiCR || b == asciiLF

/-- ADDR_WR's legal operands, 1..99 (R76, R120). -/
def isAddress (d : Byte) : Bool := 1 ≤ d.toNat && d.toNat ≤ 99

/-- VAL_PUSH's legal operands, the ASCII digits (R76, R124). -/
def isDigit (d : Byte) : Bool := 0x30 ≤ d.toNat && d.toNat ≤ 0x39

/-- ENC_SEND's legal operands, the lowercase letters (R76, R130). -/
def isLowercase (d : Byte) : Bool := 0x61 ≤ d.toNat && d.toNat ≤ 0x7A

/-- `acc_add(a, b) = (a + b) mod 26`, over the exact sum: it never wraps at 8 bits (R100, I3). -/
def accAdd (a : BitVec 5) (b : Byte) : BitVec 5 := BitVec.ofNat 5 ((a.toNat + b.toNat) % 26)

/-- `acc_of(s)`: `acc_add` folded from 0 over the bytes of `s` (R14). -/
def accOf (s : List Byte) : BitVec 5 := s.foldl accAdd 0

/-- `ck_char(a) = 0x41 + a` (R101). -/
def ckChar (a : BitVec 5) : Byte := 0x41 + a.setWidth 8

/-- The ASCII digit of a number below ten (R84). -/
def digitChar (n : Nat) : Byte := BitVec.ofNat 8 (0x30 + n)

/-- `addr_digits(a)`: tens digit, then units digit (R122). -/
def addrDigits (a : BitVec 7) : List Byte := [digitChar (a.toNat / 10), digitChar (a.toNat % 10)]

/-- The marker byte: `s` for a write, `r` for a read (R131). -/
def marker (w : Bool) : Byte := if w then asciiWrite else asciiRead

/-- The five fixed bytes that open a request's body (R131). -/
def bodyHead (a : BitVec 7) (w : Bool) (c : Byte) : List Byte :=
  [asciiColon] ++ addrDigits a ++ [marker w, c]

/-- The bytes of TX_TERM (R7). -/
def termBytes : TxTerm → List Byte
  | .cr => [asciiCR]
  | .lf => [asciiLF]
  | .crlf => [asciiCR, asciiLF]

end Sys2Proof.Machine
end

