-- ==== Sys2Proof/Machine/Ops.lean ====
section
/-! DEFINITION. The named operations over the buffers and the sequencing registers: buffer reads and
writes (spec/20_memory.md R50, R51), the body and the transmit port (spec/41_encoder.md R131,
spec/10_state.md R40), the ends of an attempt (spec/00_scope.md R13 `finish`, spec/42_decoder.md R163),
the timer phase (R160) and hardware reset (spec/70_reset_and_hazards.md R240).

The block takes no exceptions and returns from none (spec/60_exceptions.md R214, R218). Its errors are
`refuse` (Flags.lean) for a command, `finish` here for the decoder, `failFrame` (Encoder.lean) for the
encoder. -/

namespace Sys2Proof.Machine

/-- The byte at index `i`, if the entry holds a value. -/
def Memory.read : Memory → Nat → Option Byte
  | [], _ => none
  | (j, b) :: rest, i => if i = j then some b else Memory.read rest i

/-- Store `b` at index `i`, keeping the indices strictly rising. -/
def Memory.write : Memory → Nat → Byte → Memory
  | [], i, b => [(i, b)]
  | (j, c) :: rest, i, b =>
    if i < j then (i, b) :: (j, c) :: rest
    else if i = j then (i, b) :: rest
    else (j, c) :: Memory.write rest i b

/-- Every index is at least `lo`, and they rise strictly. -/
def Memory.risingFrom : Nat → Memory → Bool
  | _, [] => true
  | lo, (j, _) :: rest => decide (lo ≤ j) && Memory.risingFrom (j + 1) rest

/-- The canonical form: indices strictly rising. An unlisted entry holds no value, so no listed one
equals it. -/
def Memory.wf (m : Memory) : Bool := Memory.risingFrom 0 m

/-- `MemRead(buf, i, 1)` of a buffer of `cap` entries (R12, R50). -/
def readBuf (cap : Nat) (m : Memory) (i : Nat) : Except Fault Byte :=
  if i < cap then
    match m.read i with
    | some b => .ok b
    | none => .error .unwrittenRead
  else .error .bufferRange

/-- `MemWrite(buf, i, 1, b)` of a buffer of `cap` entries (R12, R50). -/
def writeBuf (cap : Nat) (m : Memory) (i : Nat) (b : Byte) : Except Fault Memory :=
  if i < cap then .ok (m.write i b) else .error .bufferRange

/-- `len(body) = 5 + VLEN` (R131). -/
def bodyLength (s : State) : Nat := 5 + s.vlen

/-- `body(k)` (R131): the five fixed bytes, then VBUF[0..VLEN-1]. -/
def bodyByte (s : State) (k : Nat) : Except Fault Byte :=
  match (bodyHead s.addr s.encW s.encCmd)[k]? with
  | some b => .ok b
  | none =>
    if k < bodyLength s then readBuf s.params.valueMax s.vbuf (k - 5)
    else .error .frameIndexRange

/-- The transmit port's output, `tx_byte` (R40); `none` when ENC_PH = IDLE. -/
def txByte (s : State) : Except Fault (Option Byte) :=
  match s.encPh with
  | .idle => .ok none
  | .body => (bodyByte s s.encI).map some
  | .ck => .ok (some (ckChar s.acc))
  | .term =>
    match (termBytes s.params.txTerm)[s.encI]? with
    | some b => .ok (some b)
    | none => .error .frameIndexRange

/-- Receive readiness: the decoder would take this byte (R41). -/
def rxTakes (s : State) (b : Byte) : Bool :=
  match s.decSt with
  | .seek => true
  | .addrHi => true
  | .addrLo => true
  | .payload => true
  | .swallow => isNewline b
  | .settle => false
  | .idle => false

/-- The decoder waits for a frame byte: SEEK, ADDR_HI, ADDR_LO or PAYLOAD (R160). -/
def reading (s : State) : Bool :=
  match s.decSt with
  | .seek => true
  | .addrHi => true
  | .addrLo => true
  | .payload => true
  | .swallow => false
  | .settle => false
  | .idle => false

/-- `take`: the offered byte leaves the transport's queue (R13, R65). -/
def takeByte (s : State) : State := { s with rxQueue := s.rxQueue.tail }

/-- `finish(r)`: the attempt ends with result `r` (R13). -/
def finish (r : DecResult) (s : State) : State := { s with decSt := .idle, decResult := r }

/-- `enter_settle(t)` (R163). -/
def enterSettle (t : Nat) (s : State) : State :=
  if s.params.settleDelay = 0 then finish .frameOk { s with decSt := .settle, setT0 := t }
  else { s with decSt := .settle, setT0 := t }

/-- The per-character timer has expired at `t` (R160, R223). -/
def charExpired (t : Nat) (s : State) : Bool := s.params.charTimeout ≤ t - s.lastT

/-- The settle timer has expired at `t` (R160, R223). -/
def settleExpired (t : Nat) (s : State) : Bool := s.params.settleDelay ≤ t - s.setT0

/-- The timer phase at time `t` (R160). -/
def timerPhase (t : Nat) (s : State) : State :=
  match s.decSt with
  | .idle => s
  | .seek => if charExpired t s then finish .timeout s else s
  | .addrHi => if charExpired t s then finish .timeout s else s
  | .addrLo => if charExpired t s then finish .timeout s else s
  | .payload => if charExpired t s then finish .timeout s else s
  | .swallow => if charExpired t s then enterSettle t s else s
  | .settle => if settleExpired t s then finish .frameOk s else s

/-- `RESET` (R240): every piece of the block's state takes its value of R44. It leaves the transport
alone, and with it the model's own fields: the parameters, the inputs to come and the draw count. -/
def hardReset (s : State) : State :=
  { State.resetWith s.params with
    draws := s.draws, rxQueue := s.rxQueue, txSent := s.txSent, inputs := s.inputs }

end Sys2Proof.Machine
end

