-- ==== Sys2Proof/Machine/Checksum.lean ====
section
/-! DEFINITION. The accumulator's commands, spec/40_checksum.md R102 to R104. -/

namespace Sys2Proof.Machine

/-- ACC_RESET (R102). -/
def execAccReset (s : State) : Host.Outcome State Fault Refusal :=
  if anyBusy s then .next (refuse .busy s)
  else .next (accept 0 { s with acc := 0 })

/-- ACC_ADD d8 (R103). -/
def execAccAdd (d : Byte) (s : State) : Host.Outcome State Fault Refusal :=
  if anyBusy s then .next (refuse .busy s)
  else .next (accept 0 { s with acc := accAdd s.acc d })

/-- ACC_READ (R104): legal at any time. -/
def execAccRead (s : State) : Host.Outcome State Fault Refusal :=
  .next (accept (ckChar s.acc) s)

end Sys2Proof.Machine
end

