-- ==== Sys2Proof/Machine/Control.lean ====
section
/-! DEFINITION. The control commands and illegal words, spec/43_control.md R195 to R198. -/

namespace Sys2Proof.Machine

/-- NOP (R195). -/
def execNop (s : State) : Host.Outcome State Fault Refusal := .next (accept 0 s)

/-- STAT_RD (R196): only RESP changes. -/
def execStatRd (s : State) : Host.Outcome State Fault Refusal := .next (acceptQuietly (status s) s)

/-- ERRC_RD (R197): only RESP changes. -/
def execErrcRd (s : State) : Host.Outcome State Fault Refusal :=
  .next (acceptQuietly (causeCode s.cmdCause) s)

/-- An illegal word (R198). -/
def execIllegal (s : State) : Host.Outcome State Fault Refusal := .next (refuse .illegal s)

end Sys2Proof.Machine
end

