-- ==== Sys2Proof/Machine/Decoder.lean ====
section
/-! DEFINITION. The frame decoder: DEC_START, PLEN_RD, PBUF_RD and the receive steps,
spec/42_decoder.md R150 to R164, R170, R171. The event time `t` of every step is T_PREV, which
spec/30_encoding.md R91 step 2 has just set to it. -/

namespace Sys2Proof.Machine

/-- DEC_START (R150). -/
def execDecStart (s : State) : Host.Outcome State Fault Refusal :=
  if anyBusy s then .next (refuse .busy s)
  else
    .next (accept 0
      { s with decSt := .seek, junk := 0, plen := 0, decResult := .none, lastT := s.tPrev })

/-- PLEN_RD (R170): legal at any time. -/
def execPlenRd (s : State) : Host.Outcome State Fault Refusal :=
  .next (accept (BitVec.ofNat 8 s.plen) s)

/-- PBUF_RD i (R171): legal at any time. -/
def execPbufRd (i : Byte) (s : State) : Host.Outcome State Fault Refusal :=
  if s.plen ≤ i.toNat then .next (refuse .indexRange s)
  else
    match readBuf s.params.payloadCap s.pbuf i.toNat with
    | .ok b => .next (accept b s)
    | .error f => .fault f

/-- SEEK, a byte is offered (R152, R153). -/
def rxSeek (b : Byte) (s : State) : State :=
  let s := { takeByte s with lastT := s.tPrev }
  if b = asciiColon then { s with acc := accAdd 0 b, decSt := .addrHi }
  else if s.junk + 1 = s.params.junkBudget then finish .junkOverflow { s with junk := s.junk + 1 }
  else { s with junk := s.junk + 1 }

/-- ADDR_HI, a byte is offered (R154). -/
def rxAddrHi (b : Byte) (s : State) : State :=
  { takeByte s with acc := accAdd s.acc b, ah := b, lastT := s.tPrev, decSt := .addrLo }

/-- ADDR_LO, a byte is offered (R155): the pair is compared byte by byte with ADDR's two digits. -/
def rxAddrLo (b : Byte) (s : State) : State :=
  let s := { takeByte s with acc := accAdd s.acc b, lastT := s.tPrev }
  if [s.ah, b] = addrDigits s.addr then { s with decSt := .payload }
  else finish .addressMismatch s

/-- PAYLOAD, a byte that is not UPPER (R156). -/
def rxPayloadByte (b : Byte) (s : State) : Host.Outcome State Fault Refusal :=
  match writeBuf s.params.payloadCap s.pbuf s.plen b with
  | .error f => .fault f
  | .ok m =>
    let s := { takeByte s with acc := accAdd s.acc b, lastT := s.tPrev, pbuf := m, plen := s.plen + 1 }
    .next (if s.plen = s.params.payloadCap then finish .malformedFrame s else s)

/-- PAYLOAD, an UPPER byte: the checksum letter (R159). It is neither stored nor accumulated. -/
def rxChecksum (b : Byte) (s : State) : State :=
  if b = ckChar s.acc then { takeByte s with lastT := s.tPrev, decSt := .swallow }
  else finish .checksumError (takeByte s)

/-- SWALLOW, a byte is offered (R158). -/
def rxSwallow (b : Byte) (s : State) : State :=
  if isNewline b then { takeByte s with lastT := s.tPrev } else enterSettle s.tPrev s

/-- What the decoder does with the offered byte in each of its states (R151; R157 for `leave`). -/
def decodeByte (b : Byte) (s : State) : Host.Outcome State Fault Refusal :=
  match s.decSt with
  | .idle => .next s
  | .seek => .next (rxSeek b s)
  | .addrHi => .next (rxAddrHi b s)
  | .addrLo => .next (rxAddrLo b s)
  | .payload => if isUpper b then .next (rxChecksum b s) else rxPayloadByte b s
  | .swallow => .next (rxSwallow b s)
  | .settle => .next s

/-- `RX_OFFER(b)`: the transport offers its queue's head (R65). Any other byte breaks its contract
(R228): DEDUCED, entry 7. -/
def rxOffer (b : Byte) (s : State) : Host.Outcome State Fault Refusal :=
  if s.rxQueue.head? = some b then decodeByte b s else .refused .offerNotHead

/-- `RX_NONE` (R164). Refused while a byte waits (R228, I13). -/
def rxNone (s : State) : Host.Outcome State Fault Refusal :=
  if s.rxQueue ≠ [] then .refused .noneWhileByteWaits
  else if s.decSt = .swallow then .next (enterSettle s.tPrev s)
  else .next s

end Sys2Proof.Machine
end

