-- ==== Sys2Proof/Machine/Encoder.lean ====
section
/-! DEFINITION. The frame encoder: the Device Identity and value-buffer commands, ENC_SEND, and the
transmit steps, spec/41_encoder.md R120 to R135. -/

namespace Sys2Proof.Machine

/-- ADDR_WR n (R120). -/
def execAddrWr (n : Byte) (s : State) : Host.Outcome State Fault Refusal :=
  if anyBusy s then .next (refuse .busy s)
  else if !isAddress n then .next (refuse .badOperand s)
  else .next (accept 0 { s with addr := n.setWidth 7 })

/-- ADDR_RD (R121): the binary address, at any time. -/
def execAddrRd (s : State) : Host.Outcome State Fault Refusal :=
  .next (accept (s.addr.setWidth 8) s)

/-- VAL_CLR (R123): VBUF's bytes stay. -/
def execValClr (s : State) : Host.Outcome State Fault Refusal :=
  if encBusy s then .next (refuse .busy s)
  else .next (accept 0 { s with vlen := 0 })

/-- VAL_PUSH c (R124). -/
def execValPush (c : Byte) (s : State) : Host.Outcome State Fault Refusal :=
  if encBusy s then .next (refuse .busy s)
  else if !isDigit c then .next (refuse .badOperand s)
  else if s.vlen = s.params.valueMax then .next (refuse .bufFull s)
  else
    match writeBuf s.params.valueMax s.vbuf s.vlen c with
    | .ok m => .next (accept 0 { s with vbuf := m, vlen := s.vlen + 1 })
    | .error f => .fault f

/-- ENC_SEND r|w, c (R130). -/
def execEncSend (w : Bool) (c : Byte) (s : State) : Host.Outcome State Fault Refusal :=
  if anyBusy s then .next (refuse .busy s)
  else if !isLowercase c then .next (refuse .badOperand s)
  else
    .next (accept 0
      { s with encW := w, encCmd := c, acc := 0, encResult := .none, encPh := .body, encI := 0 })

/-- The encoder moves on after the byte `b` it offered was written (R132, R133, R134). -/
def advanceFrame (b : Byte) (s : State) : State :=
  match s.encPh with
  | .idle => s
  | .body =>
    if s.encI + 1 = bodyLength s then { s with acc := accAdd s.acc b, encPh := .ck, encI := 0 }
    else { s with acc := accAdd s.acc b, encI := s.encI + 1 }
  | .ck => { s with encPh := .term, encI := 0 }
  | .term =>
    if s.encI + 1 = (termBytes s.params.txTerm).length then
      { s with encPh := .idle, encI := 0, encResult := .sent, vlen := 0 }
    else { s with encI := s.encI + 1 }

/-- `TX_ACK(ok)`: the byte on the transmit port was written (R66, R132 to R134). Refused while no byte
is offered (R92). -/
def txAckOk (s : State) : Host.Outcome State Fault Refusal :=
  match txByte s with
  | .error f => .fault f
  | .ok none => .refused .ackWithoutByte
  | .ok (some b) => .next (advanceFrame b { s with txSent := s.txSent ++ [b] })

/-- ACC after a failed write: a free value of 0..25 in BODY, kept otherwise (R135). -/
def accAfterFailure (s : State) : BitVec 5 :=
  if s.encPh = .body then BitVec.ofNat 5 (Config.freeAcc s.draws).val else s.acc

/-- The frame is abandoned (R135). -/
def failFrame (s : State) : State :=
  { s with
    acc := accAfterFailure s
    draws := if s.encPh = .body then s.draws + 1 else s.draws
    encPh := .idle, encI := 0, encResult := .txError, vlen := 0 }

/-- `TX_ACK(fail)`: the write failed (R135). Refused while no byte is offered (R92). -/
def txAckFail (s : State) : Host.Outcome State Fault Refusal :=
  if encBusy s then .next (failFrame s) else .refused .ackWithoutByte

end Sys2Proof.Machine
end

