-- ==== Sys2Proof/Machine/Dispatch.lean ====
section
/-! DEFINITION. The dispatch of the 14 commands (spec/30_encoding.md R72, spec/43_control.md R190). -/

namespace Sys2Proof.Machine

def exec (i : Instr) (s : State) : Host.Outcome State Fault Refusal :=
  match i with
  | .nop => Sys2Proof.Machine.execNop s
  | .accReset => Sys2Proof.Machine.execAccReset s
  | .accAdd d => Sys2Proof.Machine.execAccAdd d s
  | .accRead => Sys2Proof.Machine.execAccRead s
  | .addrWr n => Sys2Proof.Machine.execAddrWr n s
  | .addrRd => Sys2Proof.Machine.execAddrRd s
  | .valClr => Sys2Proof.Machine.execValClr s
  | .valPush c => Sys2Proof.Machine.execValPush c s
  | .encSend w c => Sys2Proof.Machine.execEncSend w c s
  | .decStart => Sys2Proof.Machine.execDecStart s
  | .statRd => Sys2Proof.Machine.execStatRd s
  | .plenRd => Sys2Proof.Machine.execPlenRd s
  | .pbufRd k => Sys2Proof.Machine.execPbufRd k s
  | .errcRd => Sys2Proof.Machine.execErrcRd s

end Sys2Proof.Machine
end

