-- ==== Sys2Proof/Machine/Events.lean ====
section
/-! DEFINITION. The processing of one event, spec/30_encoding.md R90 to R92. -/

namespace Sys2Proof.Machine

/-- `CMD(w)` (R190): an illegal word is refused, any other runs its command. -/
def execWord (w : Word) (s : State) : Host.Outcome State Fault Refusal :=
  match decode w with
  | .ok i => exec i s
  | .error _ => execIllegal s

/-- The event's own rule, step 4 of R91. -/
def handle (e : Event) (s : State) : Host.Outcome State Fault Refusal :=
  match e with
  | .cmd w => execWord w s
  | .txAck ok => if ok then txAckOk s else txAckFail s
  | .rxOffer b => rxOffer b s
  | .rxNone => rxNone s
  | .tick => .next s
  | .reset => .next (hardReset s)

/-- Bytes reach the end of the transport's receive queue (R65). -/
def arrive (bs : List Byte) (s : State) : State := { s with rxQueue := s.rxQueue ++ bs }

/-- Steps 2 and 3 of R91 at time `t`: T_PREV, then the timer phase. -/
def advanceTime (t : Nat) (s : State) : State := timerPhase t { s with tPrev := t }

/-- Processing one event with its timestamp (R91). -/
def processInput (x : Input) (s : State) : Host.Outcome State Fault Refusal :=
  if x.event = .reset then .next (hardReset (arrive x.arrived s))
  else if x.time < s.tPrev then .refused .timeRunsBackwards
  else handle x.event (advanceTime x.time (arrive x.arrived s))

/-- The next input is processed. With none presented the block waits (R241, R257): the state stays as
it is (entry 5). -/
def nextInput (s : State) : Host.Outcome State Fault Refusal :=
  match s.inputs with
  | [] => .next s
  | x :: rest => processInput x { s with inputs := rest }

/-- The host presents the command word `w` as the very next event, at the time of the latest one. -/
def presentWord (w : Word) (s : State) : State :=
  { s with inputs := ⟨s.tPrev, [], .cmd w⟩ :: s.inputs }

end Sys2Proof.Machine
end

