-- ==== Sys2Proof/Machine/Step.lean ====
section
/-! DEFINITION. One step of the machine, and the word the host places for it. -/

namespace Sys2Proof.Machine

/-- One step: the next pending input is processed (spec/20_memory.md R55, spec/30_encoding.md R91). -/
def step (s : State) : Host.Outcome State Fault Refusal := nextInput s

/-- `s` with the command word `w` (its low `nbits` bits, the rest zero) presented as the next event.
The block fetches no instructions (R22): a command exists only as the word the host presents (R62).
Entry 6. -/
def State.withFetchWord (s : State) (nbits w : Nat) : State :=
  presentWord (BitVec.ofNat 16 (w % 2 ^ nbits)) s

end Sys2Proof.Machine
end

