-- ==== Sys2Proof/Machine/Assembler.lean ====
section
/-! DEFINITION. The assembler's side of spec/30_encoding.md: decimal rendering (spec/41_encoder.md R126),
the pseudo-instructions (R79), the command lines and the event lines of R78. None of it is a hardware
operation: each produces commands or inputs. -/

namespace Sys2Proof.Machine

/-- The decimal digits of `n`, most significant first, at most `fuel + 1` of them. -/
def renderDigits : Nat → Nat → List Byte
  | 0, n => [digitChar (n % 10)]
  | fuel + 1, n =>
    if n < 10 then [digitChar n] else renderDigits fuel (n / 10) ++ [digitChar (n % 10)]

/-- `render_dec(n)` (R126): no leading zeros, no sign, `render_dec(0) = "0"`. -/
def renderDec (n : Nat) : List Byte := renderDigits n n

/-- The pseudo-instructions (R79). -/
inductive Pseudo where
  /-- ACC_STR "s". -/
  | accStr (s : List Byte)
  /-- VAL_STR "s". -/
  | valStr (s : List Byte)
  /-- VAL_NUM n. -/
  | valNum (n : Nat)
  /-- GET_REQ 'c'. -/
  | getReq (c : Byte)
  /-- SET_REQ 'c', n. -/
  | setReq (c : Byte) (n : Nat)
  deriving DecidableEq, Repr

/-- The expansion of R79. Its commands are separate events, each accepted or refused by its own rule
(R80). -/
def Pseudo.expand : Pseudo → List Instr
  | .accStr s => .accReset :: s.map .accAdd
  | .valStr s => .valClr :: s.map .valPush
  | .valNum n => .valClr :: (renderDec n).map .valPush
  | .getReq c => [.valClr, .encSend false c]
  | .setReq c n => (.valClr :: (renderDec n).map .valPush) ++ [.encSend true c]

/-- A token of a command line (R78). -/
inductive Token where
  | name (cs : List Char)
  | number (n : Nat)
  | quoted (b : Byte)
  | text (bs : List Byte)
  | comma
  deriving DecidableEq, Repr

/-- The characters that may stand in a mnemonic. -/
def isNameChar (c : Char) : Bool := c.isAlpha || c == '_'

/-- The value of a hexadecimal digit. -/
def hexValue (c : Char) : Option Nat :=
  if c.isDigit then some (c.toNat - 0x30)
  else if 0x41 ≤ c.toNat && c.toNat ≤ 0x46 then some (c.toNat - 0x41 + 10)
  else if 0x61 ≤ c.toNat && c.toNat ≤ 0x66 then some (c.toNat - 0x61 + 10)
  else none

/-- A run of digits in the given base, most significant first. -/
def numberValue (base : Nat) (cs : List Char) : Nat :=
  cs.foldl (fun n c => n * base + (hexValue c).getD 0) 0

/-- A character as a byte, where it is one. -/
def charByte (c : Char) : Option Byte :=
  if c.toNat < 256 then some (BitVec.ofNat 8 c.toNat) else none

/-- The quote marks, by their codes. -/
def singleQuote : Char := Char.ofNat 0x27
/-- The double quote mark. -/
def doubleQuote : Char := Char.ofNat 0x22

/-- The first token of a line and what follows it; the line starts with neither blank nor comment. -/
def nextToken (c : Char) (rest : List Char) : Option (Token × List Char) :=
  if c = ',' then some (.comma, rest)
  else if c = singleQuote then
    match rest with
    | d :: q :: rest' =>
      if q = singleQuote then (charByte d).map fun b => (.quoted b, rest') else none
    | _ => none
  else if c = doubleQuote then
    match rest.dropWhile (· ≠ doubleQuote) with
    | _ :: rest' => ((rest.takeWhile (· ≠ doubleQuote)).mapM charByte).map fun bs => (.text bs, rest')
    | [] => none
  else if c = '0' ∧ rest.head? = some 'x' then
    let digits := rest.tail.takeWhile fun d => (hexValue d).isSome
    if digits = [] then none
    else some (.number (numberValue 16 digits), rest.tail.dropWhile fun d => (hexValue d).isSome)
  else if c.isDigit then
    some (.number (numberValue 10 (c :: rest.takeWhile Char.isDigit)), rest.dropWhile Char.isDigit)
  else if isNameChar c then
    some (.name (c :: rest.takeWhile isNameChar), rest.dropWhile isNameChar)
  else none

/-- The tokens of a line, up to its comment (R78); `fuel` bounds the number of characters. -/
def tokens : Nat → List Char → Option (List Token)
  | _, [] => some []
  | 0, _ :: _ => none
  | fuel + 1, c :: rest =>
    if c = ';' then some []
    else if c = ' ' ∨ c = '\t' then tokens fuel rest
    else
      match nextToken c rest with
      | none => none
      | some (t, rest') => (tokens fuel rest').map (t :: ·)

/-- A byte operand: hex, decimal or a quoted character, all the same value (R78). -/
def byteOperand : Token → Option Byte
  | .number n => if n < 256 then some (BitVec.ofNat 8 n) else none
  | .quoted b => some b
  | .name _ => none
  | .text _ => none
  | .comma => none

/-- The commands without operands, by mnemonic (R78). -/
def bareMnemonics : List (List Char × Instr) :=
  [ (['N', 'O', 'P'], .nop),
    (['A', 'C', 'C', '_', 'R', 'E', 'S', 'E', 'T'], .accReset),
    (['A', 'C', 'C', '_', 'R', 'E', 'A', 'D'], .accRead),
    (['A', 'D', 'D', 'R', '_', 'R', 'D'], .addrRd),
    (['V', 'A', 'L', '_', 'C', 'L', 'R'], .valClr),
    (['D', 'E', 'C', '_', 'S', 'T', 'A', 'R', 'T'], .decStart),
    (['S', 'T', 'A', 'T', '_', 'R', 'D'], .statRd),
    (['P', 'L', 'E', 'N', '_', 'R', 'D'], .plenRd),
    (['E', 'R', 'R', 'C', '_', 'R', 'D'], .errcRd) ]

/-- The commands with one byte operand, by mnemonic (R78). -/
def byteCommandOf (m : List Char) (b : Byte) : Option Instr :=
  if m = ['A', 'C', 'C', '_', 'A', 'D', 'D'] then some (.accAdd b)
  else if m = ['A', 'D', 'D', 'R', '_', 'W', 'R'] then some (.addrWr b)
  else if m = ['V', 'A', 'L', '_', 'P', 'U', 'S', 'H'] then some (.valPush b)
  else if m = ['P', 'B', 'U', 'F', '_', 'R', 'D'] then some (.pbufRd b)
  else none

/-- The marker operand of ENC_SEND: `r` or `w` (R78). -/
def markerOperand (m : List Char) : Option Bool :=
  if m = ['r'] then some false else if m = ['w'] then some true else none

/-- The pseudo-instructions with a string operand (R79). -/
def textPseudo (m : List Char) (bs : List Byte) : Option Pseudo :=
  if m = ['A', 'C', 'C', '_', 'S', 'T', 'R'] then some (.accStr bs)
  else if m = ['V', 'A', 'L', '_', 'S', 'T', 'R'] then some (.valStr bs)
  else none

/-- The commands of one line of tokens: `MNEMONIC [operand[, operand]]`, or a pseudo-instruction's
expansion (R78, R79). -/
def parseLine : List Token → Option (List Instr)
  | [] => some []
  | [.name m] => (bareMnemonics.find? fun p => p.1 = m).map fun p => [p.2]
  | [.name m, .text bs] => (textPseudo m bs).map Pseudo.expand
  | [.name m, .name k, .comma, t] =>
    if m = ['E', 'N', 'C', '_', 'S', 'E', 'N', 'D'] then
      match markerOperand k, byteOperand t with
      | some w, some c => some [.encSend w c]
      | _, _ => none
    else none
  | [.name m, t, .comma, .number n] =>
    if m = ['S', 'E', 'T', '_', 'R', 'E', 'Q'] then
      (byteOperand t).map fun c => (Pseudo.setReq c n).expand
    else none
  | [.name m, t] =>
    if m = ['V', 'A', 'L', '_', 'N', 'U', 'M'] then
      match t with
      | .number n => some (Pseudo.valNum n).expand
      | _ => none
    else if m = ['G', 'E', 'T', '_', 'R', 'E', 'Q'] then
      (byteOperand t).map fun c => (Pseudo.getReq c).expand
    else
      match byteOperand t with
      | some b => (byteCommandOf m b).map ([·])
      | none => none
  | _ => none

/-- One line of assembler text to its command words (R78); `none` where the line is no command line. -/
def assemble (line : List Char) : Option (List Word) :=
  match tokens line.length line with
  | none => none
  | some ts => (parseLine ts).map (·.map encode)

/-- The inputs that offer the timed bytes in order, each on its arrival. -/
def offers (bs : List (Nat × Byte)) : List Input := bs.map fun p => ⟨p.1, [p.2], .rxOffer p.2⟩

/-- Successful acknowledgements at the given times. -/
def acks (ts : List Nat) : List Input := ts.map fun t => ⟨t, [], .txAck true⟩

/-- The lines of a test program: a command, or an environment event (R78). -/
inductive ScriptLine where
  /-- A command at `t`. -/
  | command (t : Nat) (i : Instr)
  /-- `@t RX "bytes"`. -/
  | rx (t : Nat) (bs : List Byte)
  /-- `@t TXOK xN`. -/
  | txOk (t n : Nat)
  /-- `@t TXFAIL`. -/
  | txFail (t : Nat)
  /-- `@t RXNONE`. -/
  | rxNone (t : Nat)
  /-- `@t TICK`. -/
  | tick (t : Nat)
  deriving DecidableEq, Repr

/-- The inputs of a line. RX is one RX_OFFER per byte and TXOK xN is N successful TX_ACKs (R78); both
go one event a millisecond from `t` on (spec/95_test_vectors.md, Notation). -/
def ScriptLine.inputs : ScriptLine → List Input
  | .command t i => [⟨t, [], .cmd (encode i)⟩]
  | .rx t bs => offers (bs.mapIdx fun k b => (t + k, b))
  | .txOk t n => acks ((List.range n).map (t + ·))
  | .txFail t => [⟨t, [], .txAck false⟩]
  | .rxNone t => [⟨t, [], .rxNone⟩]
  | .tick t => [⟨t, [], .tick⟩]

end Sys2Proof.Machine
end

