-- ==== Sys2Proof/WellFormed.lean ====
section
/-! DEFINITION. The operand ranges of spec/30_encoding.md R76 that do not depend on the machine's state.
An operand outside them still decodes, and the machine refuses the command with BAD_OPERAND. -/

namespace Sys2Proof

/-- The operand lies in the range R76 gives its command. PBUF_RD's bound, `D < PLEN`, depends on the
state and is no part of the check; ACC_ADD takes every byte. -/
def Instr.wellFormed : Instr → Bool
  | .addrWr n => 1 ≤ n.toNat && n.toNat ≤ 99
  | .valPush c => 0x30 ≤ c.toNat && c.toNat ≤ 0x39
  | .encSend _ c => 0x61 ≤ c.toNat && c.toNat ≤ 0x7A
  | .nop => true
  | .accReset => true
  | .accAdd _ => true
  | .accRead => true
  | .addrRd => true
  | .valClr => true
  | .decStart => true
  | .statRd => true
  | .plenRd => true
  | .pbufRd _ => true
  | .errcRd => true

end Sys2Proof
end

