-- ==== Sys2Proof/Safety.lean ====
section
/-! DEFINITION. What counts as a good state and a good run, in the terms the statements use: the
invariant of spec/10_state.md R45, what ACC holds while a frame is in flight (R132, R166), the
environment's contract (spec/60_exceptions.md R228), the command tables of R250 and R191, and runs. -/

namespace Sys2Proof.Machine

/-- The characters of the request's value, VBUF[0..VLEN-1] (R25). -/
def valueBytes (s : State) : List Byte := (List.range s.vlen).filterMap s.vbuf.read

/-- The payload, PBUF[0..PLEN-1] (R31). -/
def payloadBytes (s : State) : List Byte := (List.range s.plen).filterMap s.pbuf.read

/-- The body of the request being sent (R131). -/
def requestBody (s : State) : List Byte := bodyHead s.addr s.encW s.encCmd ++ valueBytes s

/-- The whole frame of a body: the body, its checksum letter, the terminator (R136). -/
def frameOf (body : List Byte) (t : TxTerm) : List Byte := body ++ [ckChar (accOf body)] ++ termBytes t

/-- The checksummed part of a response to `addr` with payload `p` (R89). -/
def responseBody (addr : BitVec 7) (p : List Byte) : List Byte := [asciiColon] ++ addrDigits addr ++ p

/-- The invariants of R45, and the bounds the other rules of spec/10_state.md give the same registers. -/
structure StateInv (s : State) : Prop where
  /-- The parameters lie in their ranges (R7). -/
  params_wf : s.params.wf = true
  /-- ACC ≤ 25 (R45, R23). -/
  acc_le : s.acc.toNat ≤ 25
  /-- 1 ≤ ADDR ≤ 99 (R45, R24). -/
  addr_range : 1 ≤ s.addr.toNat ∧ s.addr.toNat ≤ 99
  /-- VLEN ≤ VALUE_MAX (R45, R25). -/
  vlen_le : s.vlen ≤ s.params.valueMax
  /-- VBUF is in canonical form. -/
  vbuf_wf : s.vbuf.wf = true
  /-- VBUF has no entry past its capacity (R50). -/
  vbuf_range : ∀ c ∈ s.vbuf, c.1 < s.params.valueMax
  /-- Every character of the value was written, and is a digit (R124). -/
  vbuf_digits : ∀ i < s.vlen, ∃ b, s.vbuf.read i = some b ∧ isDigit b = true
  /-- PLEN ≤ PAYLOAD_CAP (R31). -/
  plen_le : s.plen ≤ s.params.payloadCap
  /-- PBUF is in canonical form. -/
  pbuf_wf : s.pbuf.wf = true
  /-- PBUF has no entry past its capacity (R50). -/
  pbuf_range : ∀ c ∈ s.pbuf, c.1 < s.params.payloadCap
  /-- Every byte of the payload was written, and is not UPPER (R89, R156). -/
  pbuf_written : ∀ i < s.plen, ∃ b, s.pbuf.read i = some b ∧ isUpper b = false
  /-- JUNK ≤ JUNK_BUDGET (R29). -/
  junk_le : s.junk ≤ s.params.junkBudget
  /-- JUNK < JUNK_BUDGET in SEEK (R45), and after it until the result: only SEEK counts junk (R29). -/
  junk_lt : reading s = true ∨ s.decSt = .swallow ∨ s.decSt = .settle → s.junk < s.params.junkBudget
  /-- PLEN = 0 until the payload begins (R150). -/
  plen_zero : s.decSt = .seek ∨ s.decSt = .addrHi ∨ s.decSt = .addrLo → s.plen = 0
  /-- PLEN < PAYLOAD_CAP in PAYLOAD, and after it until the result (R45, R166). -/
  plen_lt : s.decSt = .payload ∨ s.decSt = .swallow ∨ s.decSt = .settle →
    s.plen < s.params.payloadCap
  /-- ENC_BUSY and DEC_BUSY are never both 1 (R45). -/
  half_duplex : encBusy s = true → decBusy s = false
  /-- DEC_RESULT = NONE whenever DEC_BUSY = 1 (R45). -/
  decResult_none : decBusy s = true → s.decResult = .none
  /-- ENC_RESULT = NONE whenever ENC_BUSY = 1 (R45). -/
  encResult_none : encBusy s = true → s.encResult = .none
  /-- ENC_I = 0 in IDLE and CK (R26). -/
  encI_zero : s.encPh = .idle ∨ s.encPh = .ck → s.encI = 0
  /-- In BODY the index names a body byte (R131, R132). -/
  encI_body : s.encPh = .body → s.encI < bodyLength s
  /-- In TERM the index names a terminator byte (R134). -/
  encI_term : s.encPh = .term → s.encI < (termBytes s.params.txTerm).length
  /-- The letter being sent is a lowercase letter (R130). -/
  encCmd_letter : encBusy s = true → isLowercase s.encCmd = true
  /-- CMD_ERR = 1 exactly when CMD_CAUSE is not NONE (R36). -/
  cmdErr_iff : s.cmdErr = true ↔ s.cmdCause ≠ .none
  /-- LAST_T is not in the future while the per-character timer runs (R33, R107). -/
  lastT_le : reading s = true ∨ s.decSt = .swallow → s.lastT ≤ s.tPrev
  /-- SET_T0 is not in the future while the settle timer runs (R34, R107). -/
  setT0_le : s.decSt = .settle → s.setT0 ≤ s.tPrev
  /-- While the per-character timer runs it has not expired: the timer phase of the latest event has
  seen to that (R160). -/
  char_running : reading s = true ∨ s.decSt = .swallow → s.tPrev < s.lastT + s.params.charTimeout
  /-- While the settle timer runs it has not expired (R160, R163). -/
  settle_running : s.decSt = .settle → s.tPrev < s.setT0 + s.params.settleDelay

/-- ACC is the checksum of the part of the frame seen so far: sending (R132, R133) and receiving
(R152 to R159, R166). -/
structure AccTracksFrame (s : State) : Prop where
  sending : s.encPh = .body → s.acc = accOf ((requestBody s).take s.encI)
  sent_body : s.encPh = .ck ∨ s.encPh = .term → s.acc = accOf (requestBody s)
  first_digit : s.decSt = .addrHi → s.acc = accOf [asciiColon]
  second_digit : s.decSt = .addrLo → s.acc = accOf [asciiColon, s.ah]
  payload : s.decSt = .payload ∨ s.decSt = .swallow ∨ s.decSt = .settle →
    s.acc = accOf (responseBody s.addr (payloadBytes s))

/-- The input keeps the environment's contract in this state (R228, R91, R92, I13). RESET may come at
any time. -/
def contractHolds (x : Input) (s : State) : Prop :=
  match x.event with
  | .reset => True
  | .cmd _ => s.tPrev ≤ x.time
  | .tick => s.tPrev ≤ x.time
  | .txAck _ => s.tPrev ≤ x.time ∧ encBusy s = true
  | .rxOffer b => s.tPrev ≤ x.time ∧ (s.rxQueue ++ x.arrived).head? = some b
  | .rxNone => s.tPrev ≤ x.time ∧ s.rxQueue ++ x.arrived = []

/-- The table of R250: the command is refused with BUSY in this state. -/
def blockedByBusy (i : Instr) (s : State) : Bool :=
  match i with
  | .accReset => anyBusy s
  | .accAdd _ => anyBusy s
  | .addrWr _ => anyBusy s
  | .valClr => encBusy s
  | .valPush _ => encBusy s
  | .encSend _ _ => anyBusy s
  | .decStart => anyBusy s
  | .nop => false
  | .accRead => false
  | .addrRd => false
  | .statRd => false
  | .errcRd => false
  | .plenRd => false
  | .pbufRd _ => false

/-- BUF_FULL and INDEX_RANGE, the last causes of R191: they apply to one command each. -/
def capacityCause (i : Instr) (s : State) : Cause :=
  match i with
  | .valPush _ => if s.vlen = s.params.valueMax then .bufFull else .none
  | .pbufRd k => if s.plen ≤ k.toNat then .indexRange else .none
  | .nop => .none
  | .accReset => .none
  | .accAdd _ => .none
  | .accRead => .none
  | .addrWr _ => .none
  | .addrRd => .none
  | .valClr => .none
  | .encSend _ _ => .none
  | .decStart => .none
  | .statRd => .none
  | .plenRd => .none
  | .errcRd => .none

/-- The first cause of R191 that applies to the word in this state; NONE when the word is accepted.
The operand ranges are R76's. -/
def firstCause (w : Word) (s : State) : Cause :=
  match decode w with
  | .error _ => .illegal
  | .ok i =>
    if blockedByBusy i s then .busy
    else if !i.wellFormed then .badOperand
    else capacityCause i s

/-- STAT_RD and ERRC_RD, whose acceptance writes RESP only (R193). -/
def readsStatus (i : Instr) : Bool := i == .statRd || i == .errcRd

/-- The one legal word of a command without operand; every other word of its opcode is refused with
ILLEGAL and changes nothing else (R72, R73). -/
def OnlyWord (w₀ : Word) (i : Instr) : Prop :=
  decode w₀ = .ok i ∧
  ∀ w, opField w = opField w₀ → w ≠ w₀ → ∀ s : State,
    execWord w s = .next { s with cmdErr := true, cmdCause := .illegal, resp := 0 }

/-- The words of a command whose D is its operand and whose FL must be zero; a word of its opcode with
FL ≠ 0 is refused with ILLEGAL and changes nothing else (R72, R73). -/
def OperandWords (op : Nat) (i : Byte → Instr) : Prop :=
  (∀ d : Byte, decode (BitVec.ofNat 16 (op * 4096 + d.toNat)) = .ok (i d)) ∧
  ∀ w : Word, w.toNat / 4096 = op → w.toNat / 256 % 16 ≠ 0 → ∀ s : State,
    execWord w s = .next { s with cmdErr := true, cmdCause := .illegal, resp := 0 }

/-- The commands of a list, one after the other (R79). -/
def execAll : List Instr → State → Host.Outcome State Fault Refusal
  | [], s => .next s
  | i :: rest, s =>
    match exec i s with
    | .next t => execAll rest t
    | .fault f => .fault f
    | .refused r => .refused r

/-- The remainder by repeated subtraction, the document's way to reduce modulo 26 (R100); `fuel` bounds
the number of subtractions. -/
def subtractTo26 : Nat → Nat → Nat
  | 0, n => n
  | fuel + 1, n => if n < 26 then n else subtractTo26 fuel (n - 26)

/-- The bytes of the reading states taken so far in the attempt (R175). -/
def bytesTaken (s : State) : Nat :=
  match s.decSt with
  | .seek => s.junk
  | .addrHi => s.junk + 1
  | .addrLo => s.junk + 2
  | .payload => s.junk + 3 + s.plen
  | .swallow => 0
  | .settle => 0
  | .idle => 0

/-- The next event is a DEC_START that will be accepted: it begins a new attempt (R150). An attempt
that is still reading at its deadline has ended in TIMEOUT by then, in the timer phase of the same event
(R91 step 3). -/
def startsAttempt (s : State) : Prop :=
  ∃ x rest w, s.inputs = x :: rest ∧ x.event = .cmd w ∧ decode w = .ok .decStart ∧
    anyBusy (advanceTime x.time s) = false

/-- The attempt began at `t₀`, and each byte it has taken came within CHAR_TIMEOUT of the one before
(R175). -/
def AttemptBound (t₀ : Nat) (s : State) : Prop :=
  reading s = true → s.lastT ≤ t₀ + bytesTaken s * s.params.charTimeout

/-- Two states agree on everything a rule may read. They may differ in what R44 and I6 call
unspecified: AH outside ADDR_LO, ENC_W and ENC_CMD outside BODY, LAST_T outside the reading states and
SWALLOW, SET_T0 outside SETTLE, VBUF past VLEN and PBUF past PLEN. -/
structure AgreeLive (s u : State) : Prop where
  others : u = { s with
    ah := u.ah, encW := u.encW, encCmd := u.encCmd, lastT := u.lastT, setT0 := u.setT0,
    vbuf := u.vbuf, pbuf := u.pbuf }
  ah : s.decSt = .addrLo → u.ah = s.ah
  encW : s.encPh = .body → u.encW = s.encW
  encCmd : s.encPh = .body → u.encCmd = s.encCmd
  lastT : reading s = true ∨ s.decSt = .swallow → u.lastT = s.lastT
  setT0 : s.decSt = .settle → u.setT0 = s.setT0
  vbuf : ∀ i < s.vlen, u.vbuf.read i = s.vbuf.read i
  pbuf : ∀ i < s.plen, u.pbuf.read i = s.pbuf.read i

/-- Two outcomes of the same kind: equal reasons, or next states that are related. -/
def SameOutcome (R : State → State → Prop) :
    Host.Outcome State Fault Refusal → Host.Outcome State Fault Refusal → Prop
  | .next s, .next u => R s u
  | .fault f, .fault g => f = g
  | .refused r, .refused q => r = q
  | _, _ => False

/-- `k` steps of the machine. -/
def run (k : Nat) (s : State) : Host.Outcome State Fault Refusal := Sys2Proof.core.run k s

/-- The timestamps do not fall, starting from `t` (R228). -/
def risesFrom : Nat → List Nat → Prop
  | _, [] => True
  | t, u :: rest => t ≤ u ∧ risesFrom u rest

/-- The timestamps do not fall, and each comes less than `gap` after the one before it (R168). -/
def closeFrom (gap : Nat) : Nat → List Nat → Prop
  | _, [] => True
  | t, u :: rest => t ≤ u ∧ u < t + gap ∧ closeFrom gap u rest

end Sys2Proof.Machine
end

