-- ==== Sys2Proof/Certificates/Slice0/Obligations.lean ====
section
/-! DEFINITION. The statements about the model, for the provers. Each follows numbered rules of spec/,
named in its docstring; a statement that rests on a choice of the model says so and names the log entry. -/

open Sys2Proof Sys2Proof.Machine

/-! ## Encoding -/

/-- Every command, with every operand its word can hold, decodes from the word `encode` gives it
(R71, R72, R74, R75). -/
def Obligations.DecodeEncodeRoundTrip : Prop := ∀ i : Instr, decode (encode i) = .ok i

/-- A word that decodes is the one word of its command (R72, R73): no reserved bit is ignored. -/
def Obligations.EncodeDecodeRoundTrip : Prop :=
  ∀ (w : Word) (i : Instr), decode w = .ok i → encode i = w

/-- Every word is exactly one row of the opcode table, the row of the command it decodes to, or it is
illegal and no row's (R77). -/
def Obligations.DecodeMatchesExactlyOneRow : Prop :=
  ∀ w : Word,
    (∃ i, decode w = .ok i ∧ (opcodeTable.filter (·.covers w)).map Row.mnemonic = [i.mnemonic]) ∨
    ((∃ e, decode w = .error e) ∧ opcodeTable.filter (·.covers w) = [])

/-- Words written out in the spec, and what they stand for: R78, R103, R120, R124, R130, R150, R171,
R195, R196, R197. -/
def Obligations.SpecWordsDecode : Prop :=
  decode 0x0000 = .ok .nop ∧ decode 0x203A = .ok (.accAdd 58) ∧ decode 0x3000 = .ok .accRead ∧
  decode 0x400C = .ok (.addrWr 12) ∧ decode 0x7031 = .ok (.valPush 49) ∧
  decode 0x8075 = .ok (.encSend false 117) ∧ decode 0x8175 = .ok (.encSend true 117) ∧
  decode 0x9000 = .ok .decStart ∧ decode 0xA000 = .ok .statRd ∧ decode 0xC003 = .ok (.pbufRd 3) ∧
  decode 0xD000 = .ok .errcRd

/-! ## One step: the order of R91 -/

/-- A step processes the next input as R91 orders it: RESET alone at any time; a timestamp below T_PREV
is refused; otherwise T_PREV, the timer phase, and then the event's own rule, which for TICK is nothing
(R161). That the inputs stand in State, that bytes arrive with them, and that a step with no input
changes nothing, is the model's choice (entries 5, 7). -/
def Obligations.StepProcessesTheNextEvent : Prop :=
  (∀ s : State, s.inputs = [] → step s = .next s) ∧
  ∀ (s : State) (x : Input) (rest : List Input), s.inputs = x :: rest →
    let u := { s with inputs := rest, rxQueue := s.rxQueue ++ x.arrived }
    (x.event = .reset → step s = .next (hardReset u)) ∧
    (x.event ≠ .reset → x.time < s.tPrev → step s = .refused .timeRunsBackwards) ∧
    (x.event ≠ .reset → s.tPrev ≤ x.time →
      step s = handle x.event (timerPhase x.time { u with tPrev := x.time })) ∧
    (x.event = .tick → s.tPrev ≤ x.time →
      step s = .next (timerPhase x.time { u with tPrev := x.time }))

/-- Which words are illegal (R73): OP 0xE and 0xF; FL other than ENC_SEND's bit 0; a non-zero D of a
command without operand. Each is refused with ILLEGAL and changes nothing else (R198). -/
def Obligations.ReservedWordsAreRefused : Prop :=
  (∀ w : Word,
    (∃ e, decode w = .error e) ↔
      (0xE000 ≤ w.toNat ∨
       (w.toNat / 4096 = 8 ∧ 2 ≤ w.toNat / 256 % 16) ∨
       (w.toNat / 4096 ≠ 8 ∧ w.toNat / 256 % 16 ≠ 0) ∨
       (w.toNat / 4096 ∈ [0x0, 0x1, 0x3, 0x5, 0x6, 0x9, 0xA, 0xB, 0xD] ∧ w.toNat % 256 ≠ 0))) ∧
  ∀ (w : Word) (e : Illegal) (s : State), decode w = .error e →
    handle (.cmd w) s = .next { s with cmdErr := true, cmdCause := .illegal, resp := 0 }

/-- The bytes at the command port that decode to `i` run `i` (R190), after T_PREV and the timer phase
(R91). -/
def Obligations.StepRunsTheDecodedCommand : Prop :=
  ∀ (s : State) (x : Input) (rest : List Input) (w : Word) (i : Instr),
    s.inputs = x :: rest → x.event = .cmd w → s.tPrev ≤ x.time → decode w = .ok i →
    step s = exec i (advanceTime x.time (arrive x.arrived { s with inputs := rest }))

/-- Steps 2 and 3 of R91: T_PREV takes the timestamp, then each state's timer rule (R160) with
enter_settle written out (R163). -/
def Obligations.TimerPhaseRules : Prop :=
  ∀ (s : State) (t : Nat),
    (s.decSt = .idle → advanceTime t s = { s with tPrev := t }) ∧
    (reading s = true → s.params.charTimeout ≤ t - s.lastT →
      advanceTime t s = { s with tPrev := t, decSt := .idle, decResult := .timeout }) ∧
    (reading s = true ∨ s.decSt = .swallow → t - s.lastT < s.params.charTimeout →
      advanceTime t s = { s with tPrev := t }) ∧
    (s.decSt = .swallow → s.params.charTimeout ≤ t - s.lastT → 0 < s.params.settleDelay →
      advanceTime t s = { s with tPrev := t, decSt := .settle, setT0 := t }) ∧
    (s.decSt = .swallow → s.params.charTimeout ≤ t - s.lastT → s.params.settleDelay = 0 →
      advanceTime t s =
        { s with tPrev := t, decSt := .idle, setT0 := t, decResult := .frameOk }) ∧
    (s.decSt = .settle → s.params.settleDelay ≤ t - s.setT0 →
      advanceTime t s = { s with tPrev := t, decSt := .idle, decResult := .frameOk }) ∧
    (s.decSt = .settle → t - s.setT0 < s.params.settleDelay →
      advanceTime t s = { s with tPrev := t })

/-! ## The accumulator -/

/-- ACC_RESET (R102): its encoding, its result and frame when idle, BUSY while either engine runs. -/
def Obligations.AccResetCommand : Prop :=
  OnlyWord 0x1000 .accReset ∧
  ∀ s : State,
    (s.encPh = .idle → s.decSt = .idle →
      exec .accReset s = .next { s with acc := 0, cmdErr := false, cmdCause := .none, resp := 0 }) ∧
    (s.encPh ≠ .idle ∨ s.decSt ≠ .idle →
      exec .accReset s = .next { s with cmdErr := true, cmdCause := .busy, resp := 0 })

/-- ACC_ADD (R103): every D is legal; ACC becomes the exact remainder of the sum; BUSY while either
engine runs. -/
def Obligations.AccAddCommand : Prop :=
  OperandWords 0x2 .accAdd ∧
  ∀ (d : Byte) (s : State),
    (s.encPh = .idle → s.decSt = .idle →
      ∃ a : BitVec 5, a.toNat = (s.acc.toNat + d.toNat) % 26 ∧
        exec (.accAdd d) s = .next { s with acc := a, cmdErr := false, cmdCause := .none, resp := 0 }) ∧
    (s.encPh ≠ .idle ∨ s.decSt ≠ .idle →
      exec (.accAdd d) s = .next { s with cmdErr := true, cmdCause := .busy, resp := 0 })

/-- ACC_READ (R104): legal at any time, answers 0x41 + ACC, ACC unchanged. The answer is an uppercase
letter whenever ACC ≤ 25 (R101). -/
def Obligations.AccReadCommand : Prop :=
  OnlyWord 0x3000 .accRead ∧
  ∀ s : State, ∃ r : Byte, r.toNat = 0x41 + s.acc.toNat ∧
    (s.acc.toNat ≤ 25 → 0x41 ≤ r.toNat ∧ r.toNat ≤ 0x5A) ∧
    exec .accRead s = .next { s with cmdErr := false, cmdCause := .none, resp := r }

/-- Repeated subtraction of 26 from the 9-bit sum gives the accumulator's new value: the two
implementations R100 names are the same function, with no wrap at 8 bits. -/
def Obligations.RepeatedSubtractionIsAccAdd : Prop :=
  ∀ (a : BitVec 5) (b : Byte) (fuel : Nat), a.toNat ≤ 25 → 10 ≤ fuel →
    subtractTo26 fuel (a.toNat + b.toNat) = (accAdd a b).toNat

/-- ACC_STR (R79) leaves ACC at the byte sum modulo 26 (R105), whatever ACC held. -/
def Obligations.AccStrComputesTheByteSum : Prop :=
  ∀ (bs : List Byte) (s : State), s.encPh = .idle → s.decSt = .idle →
    ∃ t, execAll (Pseudo.expand (.accStr bs)) s = .next t ∧
      t.acc.toNat = (bs.map BitVec.toNat).sum % 26 ∧ t.acc = accOf bs ∧
      t = { s with acc := t.acc, cmdErr := false, cmdCause := .none, resp := 0 }

/-- The laws of R106: concatenation, permutation, a pair of bytes that sums to a multiple of 26, and
byte sums that differ by a multiple of 26. -/
def Obligations.ChecksumAlgebra : Prop :=
  (∀ s t : List Byte, (accOf (s ++ t)).toNat = ((accOf s).toNat + (accOf t).toNat) % 26) ∧
  (∀ s t : List Byte, s.Perm t → accOf s = accOf t) ∧
  (∀ (a : BitVec 5) (b c : Byte), a.toNat ≤ 25 → (b.toNat + c.toNat) % 26 = 0 →
    accAdd (accAdd a b) c = a) ∧
  (∀ s t : List Byte, (s.map BitVec.toNat).sum % 26 = (t.map BitVec.toNat).sum % 26 →
    ckChar (accOf s) = ckChar (accOf t))

/-! ## The Device Identity and the value buffer -/

/-- ADDR_WR (R120): 1..99 is stored; 0 and 100..255 are BAD_OPERAND; BUSY during a frame. -/
def Obligations.AddrWrCommand : Prop :=
  OperandWords 0x4 .addrWr ∧
  ∀ (n : Byte) (s : State),
    (s.encPh = .idle → s.decSt = .idle → 1 ≤ n.toNat → n.toNat ≤ 99 →
      ∃ a : BitVec 7, a.toNat = n.toNat ∧
        exec (.addrWr n) s = .next { s with addr := a, cmdErr := false, cmdCause := .none, resp := 0 }) ∧
    (s.encPh = .idle → s.decSt = .idle → n.toNat = 0 ∨ 100 ≤ n.toNat →
      exec (.addrWr n) s = .next { s with cmdErr := true, cmdCause := .badOperand, resp := 0 }) ∧
    (s.encPh ≠ .idle ∨ s.decSt ≠ .idle →
      exec (.addrWr n) s = .next { s with cmdErr := true, cmdCause := .busy, resp := 0 })

/-- ADDR_RD (R121): the binary address, at any time. -/
def Obligations.AddrRdCommand : Prop :=
  OnlyWord 0x5000 .addrRd ∧
  ∀ s : State, ∃ r : Byte, r.toNat = s.addr.toNat ∧
    exec .addrRd s = .next { s with cmdErr := false, cmdCause := .none, resp := r }

/-- VAL_CLR (R123): VLEN becomes 0 and no byte of VBUF changes; BUSY only while the encoder runs. -/
def Obligations.ValClrCommand : Prop :=
  OnlyWord 0x6000 .valClr ∧
  ∀ s : State,
    (s.encPh = .idle →
      exec .valClr s = .next { s with vlen := 0, cmdErr := false, cmdCause := .none, resp := 0 }) ∧
    (s.encPh ≠ .idle →
      exec .valClr s = .next { s with cmdErr := true, cmdCause := .busy, resp := 0 })

/-- VAL_PUSH (R124): the digit goes to VBUF[VLEN] and to no other entry; the three refusals in their
order. -/
def Obligations.ValPushCommand : Prop :=
  OperandWords 0x7 .valPush ∧
  ∀ (c : Byte) (s : State),
    (s.encPh = .idle → 0x30 ≤ c.toNat → c.toNat ≤ 0x39 → s.vlen < s.params.valueMax →
      ∃ m : Memory, m.read s.vlen = some c ∧ (∀ i, i ≠ s.vlen → m.read i = s.vbuf.read i) ∧
        exec (.valPush c) s =
          .next { s with vbuf := m, vlen := s.vlen + 1, cmdErr := false, cmdCause := .none, resp := 0 }) ∧
    (s.encPh = .idle → 0x30 ≤ c.toNat → c.toNat ≤ 0x39 → s.vlen = s.params.valueMax →
      exec (.valPush c) s = .next { s with cmdErr := true, cmdCause := .bufFull, resp := 0 }) ∧
    (s.encPh = .idle → c.toNat < 0x30 ∨ 0x39 < c.toNat →
      exec (.valPush c) s = .next { s with cmdErr := true, cmdCause := .badOperand, resp := 0 }) ∧
    (s.encPh ≠ .idle →
      exec (.valPush c) s = .next { s with cmdErr := true, cmdCause := .busy, resp := 0 })

/-- `render_dec` (R126): the digits' value is the number, every one is an ASCII digit, and the first is
`0` for 0 only, whose rendering is `"0"`. -/
def Obligations.RenderDecIsDecimal : Prop :=
  ∀ n : Nat,
    (renderDec n).foldl (fun v b => v * 10 + (b.toNat - 0x30)) 0 = n ∧
    (∀ b ∈ renderDec n, isDigit b = true) ∧
    (n ≠ 0 → ∀ b, (renderDec n).head? = some b → b.toNat ≠ 0x30) ∧
    (n = 0 → renderDec n = [0x30])

/-- VAL_NUM (R79, R126): when the number's digits fit VBUF, the value becomes exactly those digits. -/
def Obligations.ValNumLoadsTheDigits : Prop :=
  ∀ (n : Nat) (s : State), s.encPh = .idle → (renderDec n).length ≤ s.params.valueMax →
    ∃ t, execAll (Pseudo.expand (.valNum n)) s = .next t ∧ valueBytes t = renderDec n ∧
      t.vlen = (renderDec n).length ∧ t.cmdErr = false ∧
      t = { s with vbuf := t.vbuf, vlen := t.vlen, cmdErr := false, cmdCause := .none, resp := 0 }

/-! ## The encoder -/

/-- ENC_SEND (R130): what it latches and starts; BAD_OPERAND for a byte that is no lowercase letter;
BUSY while either engine runs; ILLEGAL with FL[3:1] ≠ 0. -/
def Obligations.EncSendCommand : Prop :=
  (∀ (w : Bool) (c : Byte),
    decode (BitVec.ofNat 16 ((if w then 0x8100 else 0x8000) + c.toNat)) = .ok (.encSend w c)) ∧
  (∀ v : Word, v.toNat / 4096 = 8 → 2 ≤ v.toNat / 256 % 16 → ∀ s : State,
    execWord v s = .next { s with cmdErr := true, cmdCause := .illegal, resp := 0 }) ∧
  ∀ (w : Bool) (c : Byte) (s : State),
    (s.encPh = .idle → s.decSt = .idle → 0x61 ≤ c.toNat → c.toNat ≤ 0x7A →
      exec (.encSend w c) s =
        .next { s with
          encW := w, encCmd := c, acc := 0, encResult := .none, encPh := .body, encI := 0
          cmdErr := false, cmdCause := .none, resp := 0 }) ∧
    (s.encPh = .idle → s.decSt = .idle → c.toNat < 0x61 ∨ 0x7A < c.toNat →
      exec (.encSend w c) s = .next { s with cmdErr := true, cmdCause := .badOperand, resp := 0 }) ∧
    (s.encPh ≠ .idle ∨ s.decSt ≠ .idle →
      exec (.encSend w c) s = .next { s with cmdErr := true, cmdCause := .busy, resp := 0 })

/-- The body (R131): `:`, the two address digits, the marker, the letter, then VBUF[0..VLEN-1]; its
length is 5 + VLEN. -/
def Obligations.BodyBytes : Prop :=
  ∀ s : State, StateInv s →
    (requestBody s).length = 5 + s.vlen ∧
    (∀ k b, (requestBody s)[k]? = some b → bodyByte s k = .ok b) ∧
    (requestBody s)[0]? = some 0x3A ∧
    (∃ hi lo : Byte, (requestBody s)[1]? = some hi ∧ (requestBody s)[2]? = some lo ∧
      hi.toNat = 0x30 + s.addr.toNat / 10 ∧ lo.toNat = 0x30 + s.addr.toNat % 10) ∧
    (requestBody s)[3]? = some (if s.encW then 0x73 else 0x72) ∧
    (requestBody s)[4]? = some s.encCmd ∧
    (∀ i < s.vlen, (requestBody s)[5 + i]? = s.vbuf.read i)

/-- The transmit port (R40): no byte when ENC_PH = IDLE; else body(ENC_I), the checksum letter, or
TX_TERM[ENC_I]. -/
def Obligations.TransmitPortOutput : Prop :=
  ∀ s : State, StateInv s →
    (s.encPh = .idle → txByte s = .ok none) ∧
    (s.encPh = .body → ∃ b, (requestBody s)[s.encI]? = some b ∧ txByte s = .ok (some b)) ∧
    (s.encPh = .ck → ∃ b : Byte, b.toNat = 0x41 + s.acc.toNat ∧ txByte s = .ok (some b)) ∧
    (s.encPh = .term → ∃ b, (termBytes s.params.txTerm)[s.encI]? = some b ∧ txByte s = .ok (some b))

/-- TX_ACK(ok) in BODY (R132): the byte just written is accumulated, and the encoder moves to the next
body byte or to the checksum. -/
def Obligations.TxAckOkInBody : Prop :=
  ∀ (s : State) (b : Byte), s.encPh = .body → bodyByte s s.encI = .ok b →
    ∃ a : BitVec 5, a.toNat = (s.acc.toNat + b.toNat) % 26 ∧
      (s.encI + 1 ≠ 5 + s.vlen →
        handle (.txAck true) s =
          .next { s with acc := a, encI := s.encI + 1, txSent := s.txSent ++ [b] }) ∧
      (s.encI + 1 = 5 + s.vlen →
        handle (.txAck true) s =
          .next { s with acc := a, encPh := .ck, encI := 0, txSent := s.txSent ++ [b] })

/-- TX_ACK(ok) in CK (R133) and in TERM (R134): ACC is not changed; the last terminator byte ends the
frame with SENT and clears VLEN. -/
def Obligations.TxAckOkAfterBody : Prop :=
  ∀ s : State,
    (s.encPh = .ck → ∃ b : Byte, b.toNat = 0x41 + s.acc.toNat ∧
      handle (.txAck true) s =
        .next { s with encPh := .term, encI := 0, txSent := s.txSent ++ [b] }) ∧
    (s.encPh = .term → ∀ b, (termBytes s.params.txTerm)[s.encI]? = some b →
      (s.encI + 1 ≠ (termBytes s.params.txTerm).length →
        handle (.txAck true) s = .next { s with encI := s.encI + 1, txSent := s.txSent ++ [b] }) ∧
      (s.encI + 1 = (termBytes s.params.txTerm).length →
        handle (.txAck true) s =
          .next { s with
            encPh := .idle, encI := 0, encResult := .sent, vlen := 0, txSent := s.txSent ++ [b] }))

/-- TX_ACK(fail) (R135): the frame is abandoned with TX_ERROR. After a failure in BODY, ACC is some
value of 0..25 (a free value, entry 4; the draw count is the model's own field); after one in CK or
TERM it is kept. -/
def Obligations.TxAckFailAbandonsTheFrame : Prop :=
  ∀ s : State,
    (s.encPh = .body → ∃ a : BitVec 5, a.toNat ≤ 25 ∧
      handle (.txAck false) s =
        .next { s with
          acc := a, draws := s.draws + 1, encPh := .idle, encI := 0, encResult := .txError, vlen := 0 }) ∧
    (s.encPh = .ck ∨ s.encPh = .term →
      handle (.txAck false) s =
        .next { s with encPh := .idle, encI := 0, encResult := .txError, vlen := 0 }) ∧
    (s.encPh = .idle → handle (.txAck false) s = .refused .ackWithoutByte)

/-- The frame of one successful ENC_SEND (R136): with the body, the checksum letter and the terminator
acknowledged one by one, the transport has accepted exactly that frame, and the encoder ends with SENT,
idle, and no value. That the accepted bytes stand in `txSent` is the model's choice (entry 8). -/
def Obligations.EncoderSendsExactlyTheFrame : Prop :=
  ∀ (s : State) (ts : List Nat), StateInv s →
    s.encPh = .body → s.encI = 0 → s.acc = 0 →
    s.inputs = acks ts → risesFrom s.tPrev ts →
    ts.length = 6 + s.vlen + (termBytes s.params.txTerm).length →
    ∃ t, run ts.length s = .next t ∧
      t.txSent = s.txSent ++ frameOf (requestBody s) s.params.txTerm ∧
      t.encPh = .idle ∧ t.encResult = .sent ∧ t.vlen = 0 ∧ t.acc = accOf (requestBody s)

/-! ## The decoder -/

/-- DEC_START (R150): starts an attempt at the event's time, which is T_PREV by R91; PBUF and ACC are
not touched; BUSY while either engine runs. -/
def Obligations.DecStartCommand : Prop :=
  OnlyWord 0x9000 .decStart ∧
  ∀ s : State,
    (s.encPh = .idle → s.decSt = .idle →
      exec .decStart s =
        .next { s with
          decSt := .seek, junk := 0, plen := 0, decResult := .none, lastT := s.tPrev
          cmdErr := false, cmdCause := .none, resp := 0 }) ∧
    (s.encPh ≠ .idle ∨ s.decSt ≠ .idle →
      exec .decStart s = .next { s with cmdErr := true, cmdCause := .busy, resp := 0 })

/-- SEEK (R152, R153): `:` starts the frame with ACC = 6; any other byte is junk, and the
JUNK_BUDGET-th ends the attempt. -/
def Obligations.SeekTakesEveryByte : Prop :=
  ∀ (s : State) (b : Byte) (q : List Byte), s.decSt = .seek → s.rxQueue = b :: q →
    (b = 0x3A → handle (.rxOffer b) s =
      .next { s with rxQueue := q, acc := 6, lastT := s.tPrev, decSt := .addrHi }) ∧
    (b ≠ 0x3A → s.junk + 1 ≠ s.params.junkBudget → handle (.rxOffer b) s =
      .next { s with rxQueue := q, lastT := s.tPrev, junk := s.junk + 1 }) ∧
    (b ≠ 0x3A → s.junk + 1 = s.params.junkBudget → handle (.rxOffer b) s =
      .next { s with
        rxQueue := q, lastT := s.tPrev, junk := s.junk + 1
        decSt := .idle, decResult := .junkOverflow })

/-- ADDR_HI and ADDR_LO (R154, R155): both bytes are taken and accumulated; the pair must be the two
ASCII digits of ADDR. -/
def Obligations.AddressBytesAreCompared : Prop :=
  ∀ (s : State) (b : Byte) (q : List Byte), s.rxQueue = b :: q →
    ∃ a : BitVec 5, a.toNat = (s.acc.toNat + b.toNat) % 26 ∧
      (s.decSt = .addrHi → handle (.rxOffer b) s =
        .next { s with rxQueue := q, acc := a, ah := b, lastT := s.tPrev, decSt := .addrLo }) ∧
      (s.decSt = .addrLo → 1 ≤ s.addr.toNat → s.addr.toNat ≤ 99 →
        s.ah.toNat = 0x30 + s.addr.toNat / 10 → b.toNat = 0x30 + s.addr.toNat % 10 →
        handle (.rxOffer b) s =
          .next { s with rxQueue := q, acc := a, lastT := s.tPrev, decSt := .payload }) ∧
      (s.decSt = .addrLo → 1 ≤ s.addr.toNat → s.addr.toNat ≤ 99 →
        ¬(s.ah.toNat = 0x30 + s.addr.toNat / 10 ∧ b.toNat = 0x30 + s.addr.toNat % 10) →
        handle (.rxOffer b) s =
          .next { s with
            rxQueue := q, acc := a, lastT := s.tPrev
            decSt := .idle, decResult := .addressMismatch })

/-- PAYLOAD, a byte that is not uppercase (R156): accumulated and stored at PBUF[PLEN] and nowhere else;
the store that fills PBUF ends the attempt with MALFORMED_FRAME. -/
def Obligations.PayloadBytesAreStored : Prop :=
  ∀ (s : State) (b : Byte) (q : List Byte), s.decSt = .payload → s.rxQueue = b :: q →
    b.toNat < 0x41 ∨ 0x5A < b.toNat → s.plen < s.params.payloadCap →
    ∃ (a : BitVec 5) (m : Memory), a.toNat = (s.acc.toNat + b.toNat) % 26 ∧
      m.read s.plen = some b ∧ (∀ i, i ≠ s.plen → m.read i = s.pbuf.read i) ∧
      (s.plen + 1 ≠ s.params.payloadCap → handle (.rxOffer b) s =
        .next { s with rxQueue := q, acc := a, lastT := s.tPrev, pbuf := m, plen := s.plen + 1 }) ∧
      (s.plen + 1 = s.params.payloadCap → handle (.rxOffer b) s =
        .next { s with
          rxQueue := q, acc := a, lastT := s.tPrev, pbuf := m, plen := s.plen + 1
          decSt := .idle, decResult := .malformedFrame })

/-- PAYLOAD, an uppercase byte (R159): taken, neither stored nor accumulated, compared with 0x41 + ACC. -/
def Obligations.ChecksumLetterIsCompared : Prop :=
  ∀ (s : State) (b : Byte) (q : List Byte), s.decSt = .payload → s.rxQueue = b :: q →
    0x41 ≤ b.toNat → b.toNat ≤ 0x5A →
    (b.toNat = 0x41 + s.acc.toNat → handle (.rxOffer b) s =
      .next { s with rxQueue := q, lastT := s.tPrev, decSt := .swallow }) ∧
    (b.toNat ≠ 0x41 + s.acc.toNat → handle (.rxOffer b) s =
      .next { s with rxQueue := q, decSt := .idle, decResult := .checksumError })

/-- SWALLOW (R158) and RX_NONE (R164), with enter_settle written out (R163): CR and LF are discarded;
any other byte is left and ends the swallow, as an empty queue does. RX_NONE changes nothing in the
other states. -/
def Obligations.SwallowEndsOnOtherByteOrNone : Prop :=
  ∀ (s : State) (e : Event),
    (∀ b, e = .rxOffer b → s.rxQueue.head? = some b) → (e = .rxNone → s.rxQueue = []) →
    (s.decSt = .swallow → ∀ b, e = .rxOffer b → b.toNat = 0x0D ∨ b.toNat = 0x0A →
      handle e s = .next { s with rxQueue := s.rxQueue.tail, lastT := s.tPrev }) ∧
    (s.decSt = .swallow → e = .rxNone ∨ (∃ b, e = .rxOffer b ∧ b.toNat ≠ 0x0D ∧ b.toNat ≠ 0x0A) →
      (s.params.settleDelay ≠ 0 →
        handle e s = .next { s with decSt := .settle, setT0 := s.tPrev }) ∧
      (s.params.settleDelay = 0 →
        handle e s =
          .next { s with decSt := .idle, setT0 := s.tPrev, decResult := .frameOk })) ∧
    (s.decSt ≠ .swallow → e = .rxNone → handle e s = .next s)

/-- The receive port takes a byte exactly when it is ready for it (R41): in SEEK, ADDR_HI, ADDR_LO and
PAYLOAD, and in SWALLOW a CR or LF; in every other case it leaves it. IDLE and SETTLE leave every byte
and change nothing (R157). -/
def Obligations.ReceivePortReadiness : Prop :=
  (∀ (s : State) (b : Byte), s.decSt = .idle ∨ s.decSt = .settle → s.rxQueue.head? = some b →
    handle (.rxOffer b) s = .next s) ∧
  ∀ (s t : State) (b : Byte), handle (.rxOffer b) s = .next t →
    (reading s = true ∨ (s.decSt = .swallow ∧ (b = 0x0D ∨ b = 0x0A)) → t.rxQueue = s.rxQueue.tail) ∧
    (¬(reading s = true ∨ (s.decSt = .swallow ∧ (b = 0x0D ∨ b = 0x0A))) → t.rxQueue = s.rxQueue)

/-- PLEN_RD (R170): legal at any time. -/
def Obligations.PlenRdCommand : Prop :=
  OnlyWord 0xB000 .plenRd ∧
  ∀ s : State, s.plen ≤ 255 → ∃ r : Byte, r.toNat = s.plen ∧
    exec .plenRd s = .next { s with cmdErr := false, cmdCause := .none, resp := r }

/-- PBUF_RD (R171): the byte at the index, at any time; INDEX_RANGE at and past PLEN. A payload byte
that was never written, or lies past the capacity, is in no state with the invariant. -/
def Obligations.PbufRdCommand : Prop :=
  OperandWords 0xC .pbufRd ∧
  ∀ (k : Byte) (s : State),
    (StateInv s → k.toNat < s.plen → ∃ b, s.pbuf.read k.toNat = some b ∧
      exec (.pbufRd k) s = .next { s with cmdErr := false, cmdCause := .none, resp := b }) ∧
    (s.plen ≤ k.toNat →
      exec (.pbufRd k) s = .next { s with cmdErr := true, cmdCause := .indexRange, resp := 0 })

/-- Recovery of a frame behind junk (R168, R89, R158, R166): at most JUNK_BUDGET - 1 bytes that are no
`:`, then a valid frame for ADDR with any number of CR and LF after its checksum letter, each byte within
CHAR_TIMEOUT of the last, then RX_NONE, and a TICK once the settle delay is over. The attempt ends in
FRAME_OK with the payload in PBUF and nothing left. -/
def Obligations.DecoderRecoversTheFrame : Prop :=
  ∀ (s : State) (junk payload newlines : List Byte) (ts : List Nat) (tNone tTick : Nat), StateInv s →
    s.decSt = .seek → s.junk = 0 → s.rxQueue = [] →
    (∀ b ∈ junk, b ≠ 0x3A) → junk.length + 1 ≤ s.params.junkBudget →
    (∀ b ∈ payload, isUpper b = false) → payload.length + 1 ≤ s.params.payloadCap →
    (∀ b ∈ newlines, b = 0x0D ∨ b = 0x0A) →
    let body := responseBody s.addr payload
    let bytes := junk ++ body ++ [ckChar (accOf body)] ++ newlines
    ts.length = bytes.length →
    closeFrom s.params.charTimeout s.lastT (ts ++ [tNone]) → s.tPrev ≤ (ts ++ [tNone]).head! →
    tNone + s.params.settleDelay ≤ tTick →
    s.inputs = offers (ts.zip bytes) ++ [⟨tNone, [], .rxNone⟩, ⟨tTick, [], .tick⟩] →
    ∃ t, run (bytes.length + 2) s = .next t ∧
      t.decSt = .idle ∧ t.decResult = .frameOk ∧ payloadBytes t = payload ∧
      t.plen = payload.length ∧ t.junk = junk.length ∧ t.rxQueue = [] ∧ t.acc = accOf body

/-- At the junk budget the attempt ends in JUNK_OVERFLOW (R168): JUNK_BUDGET bytes that are no `:` are
taken, ACC is as before, and what waits behind them stays in the transport. -/
def Obligations.JunkBudgetEndsTheAttempt : Prop :=
  ∀ (s : State) (junk rest : List Byte) (ts : List Nat), StateInv s →
    s.decSt = .seek → s.junk = 0 → (∀ b ∈ junk, b ≠ 0x3A) →
    junk.length = s.params.junkBudget → ts.length = junk.length →
    closeFrom s.params.charTimeout s.lastT ts → s.tPrev ≤ ts.head! →
    s.rxQueue = junk ++ rest →
    s.inputs = (ts.zip junk).map (fun p => ⟨p.1, [], .rxOffer p.2⟩) →
    ∃ t, run junk.length s = .next t ∧
      t.decSt = .idle ∧ t.decResult = .junkOverflow ∧ t.junk = s.params.junkBudget ∧
      t.acc = s.acc ∧ t.plen = s.plen ∧ t.rxQueue = rest

/-- The timeout property (R174): while no byte is offered, no event before LAST_T + CHAR_TIMEOUT ends the
attempt, and the first event at or after it does, whatever it is: the attempt ends in TIMEOUT before the
event's own rule runs (R91), so a byte offered then is left, and a DEC_START then begins the next
attempt. TX_ACK cannot come while an attempt runs (R59, R92), and RESET ends an attempt without a result
(R240). Bytes may arrive all the while; where they wait is the model's choice (entry 7). -/
def Obligations.TimeoutExactlyAtTheDeadline : Prop :=
  ∀ (s : State) (early : List Input) (late : Input) (rest : List Input), StateInv s →
    reading s = true →
    (∀ x ∈ early, x.time < s.lastT + s.params.charTimeout ∧
      (x.event = .tick ∨ (∃ w, x.event = .cmd w) ∨
       (x.event = .rxNone ∧ s.rxQueue = [] ∧ ∀ y ∈ early, y.arrived = []))) →
    risesFrom s.tPrev (early.map Input.time) →
    s.lastT + s.params.charTimeout ≤ late.time →
    let q := s.rxQueue ++ early.flatMap Input.arrived ++ late.arrived
    (late.event = .tick ∨ (∃ w, late.event = .cmd w) ∨ (late.event = .rxNone ∧ q = []) ∨
      ∃ b, late.event = .rxOffer b ∧ q.head? = some b) →
    s.inputs = early ++ late :: rest →
    ∃ u t, run early.length s = .next u ∧ u.decSt = s.decSt ∧ u.decResult = .none ∧
      run (early.length + 1) s = .next t ∧ t.rxQueue = q ∧
      ((∀ w, late.event = .cmd w → decode w ≠ .ok .decStart) →
        t.decSt = .idle ∧ t.decResult = .timeout) ∧
      (∀ w, late.event = .cmd w → decode w = .ok .decStart →
        t.decSt = .seek ∧ t.decResult = .none ∧ t.lastT = late.time ∧ bytesTaken t = 0)

/-- The worst-case bound of ONE attempt (R175), from its DEC_START to the next one. An accepted DEC_START
begins it at its own time with no byte taken. Every other step counts the bytes it takes and keeps
LAST_T ≤ t₀ + bytes × CHAR_TIMEOUT. So while the attempt is in a reading state it has taken fewer than
JUNK_BUDGET + 2 + PAYLOAD_CAP bytes and the time is below
t₀ + (JUNK_BUDGET + 2 + PAYLOAD_CAP) × CHAR_TIMEOUT, and an event at or after that time leaves no reading
state. -/
def Obligations.ReadingStatesAreBounded : Prop :=
  (∀ s t : State, startsAttempt s → step s = .next t →
    reading t = true ∧ bytesTaken t = 0 ∧ t.lastT = t.tPrev ∧ AttemptBound t.tPrev t) ∧
  (∀ (t₀ : Nat) (s t : State), StateInv s → AttemptBound t₀ s → ¬startsAttempt s →
    step s = .next t → AttemptBound t₀ t) ∧
  (∀ (s t : State) (x : Input) (rest : List Input), StateInv s → ¬startsAttempt s →
    s.inputs = x :: rest → step s = .next t → reading t = true →
    (t.rxQueue = s.rxQueue ++ x.arrived ∧ bytesTaken t = bytesTaken s) ∨
    ((∃ b, s.rxQueue ++ x.arrived = b :: t.rxQueue) ∧ bytesTaken t = bytesTaken s + 1)) ∧
  (∀ (t₀ : Nat) (s : State), StateInv s → AttemptBound t₀ s → reading s = true →
    bytesTaken s < s.params.junkBudget + 2 + s.params.payloadCap ∧
    s.tPrev < t₀ + (s.params.junkBudget + 2 + s.params.payloadCap) * s.params.charTimeout) ∧
  ∀ (t₀ : Nat) (s t : State) (x : Input) (rest : List Input), StateInv s → AttemptBound t₀ s →
    ¬startsAttempt s → s.inputs = x :: rest → step s = .next t →
    t₀ + (s.params.junkBudget + 2 + s.params.payloadCap) * s.params.charTimeout ≤ x.time →
    reading t = false

/-- FRAME_OK is published only at the end of the settle delay (R162): a step that brings it comes from
SETTLE at or after SET_T0 + SETTLE_DELAY, or from SWALLOW when SETTLE_DELAY = 0. -/
def Obligations.FrameOkOnlyAfterTheSettleDelay : Prop :=
  ∀ s t : State, StateInv s → step s = .next t → t.decResult = .frameOk → s.decResult ≠ .frameOk →
    (s.decSt = .settle ∧ s.setT0 + s.params.settleDelay ≤ t.tPrev) ∨
    (s.decSt = .swallow ∧ s.params.settleDelay = 0)

/-! ## Control -/

/-- NOP (R195): clears CMD_ERR, and nothing else. -/
def Obligations.NopCommand : Prop :=
  OnlyWord 0x0000 .nop ∧
  ∀ s : State, exec .nop s = .next { s with cmdErr := false, cmdCause := .none, resp := 0 }

/-- STAT_RD (R196, R38): the STATUS byte, with the codes of ENC_RESULT (R27) and DEC_RESULT (R32), and no
state changes except RESP. -/
def Obligations.StatRdCommand : Prop :=
  OnlyWord 0xA000 .statRd ∧
  (∀ s : State, ∃ r : Byte, exec .statRd s = .next { s with resp := r } ∧
    r.toNat = (if s.encPh = .idle then 0 else 1) + (if s.decSt = .idle then 0 else 2) +
      4 * (encResultCode s.encResult).toNat + 16 * (decResultCode s.decResult).toNat +
      (if s.cmdErr then 128 else 0)) ∧
  encResultCode .none = 0 ∧ encResultCode .sent = 1 ∧ encResultCode .txError = 2 ∧
  decResultCode .none = 0 ∧ decResultCode .frameOk = 1 ∧ decResultCode .timeout = 2 ∧
  decResultCode .junkOverflow = 3 ∧ decResultCode .addressMismatch = 4 ∧
  decResultCode .checksumError = 5 ∧ decResultCode .malformedFrame = 6

/-- ERRC_RD (R197): the code of CMD_CAUSE (R36), and no state changes except RESP. -/
def Obligations.ErrcRdCommand : Prop :=
  OnlyWord 0xD000 .errcRd ∧
  (∀ s : State, exec .errcRd s = .next { s with resp := causeCode s.cmdCause }) ∧
  causeCode .none = 0 ∧ causeCode .illegal = 1 ∧ causeCode .busy = 2 ∧ causeCode .badOperand = 3 ∧
  causeCode .bufFull = 4 ∧ causeCode .indexRange = 5

/-- The busy interlock (R250): the commands of the table are refused with BUSY in the states it names,
with no other effect; in every other state no command reports BUSY. -/
def Obligations.BusyInterlockTable : Prop :=
  ∀ (i : Instr) (s : State),
    (blockedByBusy i s = true →
      exec i s = .next { s with cmdErr := true, cmdCause := .busy, resp := 0 }) ∧
    (blockedByBusy i s = false → readsStatus i = false →
      ∀ t, exec i s = .next t → t.cmdCause ≠ .busy)

/-- The order of refusal causes (R191): the cause recorded is the first that applies. -/
def Obligations.FirstApplicableCauseIsReported : Prop :=
  ∀ (w : Word) (s t : State),
    (∀ i, decode w = .ok i → readsStatus i = false) → execWord w s = .next t →
    t.cmdCause = firstCause w s ∧ (t.cmdErr = true ↔ firstCause w s ≠ .none)

/-- The command-error update and the atomicity of commands (R193, R192, R13): a command is accepted,
clearing CMD_ERR and CMD_CAUSE, or refused with a cause and no other effect; STAT_RD and ERRC_RD write
RESP only; an illegal word is a refusal whatever its OP. -/
def Obligations.CommandErrorUpdate : Prop :=
  (∀ (i : Instr) (s t : State), readsStatus i = false → exec i s = .next t →
    (t.cmdErr = false ∧ t.cmdCause = .none) ∨
    (∃ c, c ≠ .none ∧ t = { s with cmdErr := true, cmdCause := c, resp := 0 })) ∧
  (∀ (i : Instr) (s : State), readsStatus i = true → ∃ r, exec i s = .next { s with resp := r }) ∧
  (∀ (w : Word) (e : Illegal) (s : State), decode w = .error e →
    execWord w s = .next { s with cmdErr := true, cmdCause := .illegal, resp := 0 })

/-- The read commands (R57): ACC_READ, ADDR_RD, PLEN_RD and PBUF_RD change nothing but CMD_ERR,
CMD_CAUSE and RESP, and a repeated read returns the same value. -/
def Obligations.ReadsHaveNoOtherEffect : Prop :=
  ∀ (i : Instr) (s t : State), i = .accRead ∨ i = .addrRd ∨ i = .plenRd ∨ (∃ k, i = .pbufRd k) →
    exec i s = .next t →
    t = { s with cmdErr := t.cmdErr, cmdCause := t.cmdCause, resp := t.resp } ∧
    ∃ u, exec i t = .next u ∧ u.resp = t.resp

/-! ## Reset -/

/-- RESET (R240, R44): every piece of the block's state that R44 gives a value takes it, from any state
and at any timestamp, with no timer phase; the buffers hold no value; the transport is not touched. The
registers R44 calls unspecified are not stated here (entry 2). -/
def Obligations.ResetEvent : Prop :=
  ∀ (s : State) (t : Nat) (arrived : List Byte) (rest : List Input),
    s.inputs = ⟨t, arrived, .reset⟩ :: rest → s.params.wf = true →
    ∃ u, step s = .next u ∧
      u.acc = 0 ∧ u.addr.toNat = s.params.resetAddr ∧ u.vlen = 0 ∧ u.plen = 0 ∧ u.junk = 0 ∧
      u.tPrev = 0 ∧ u.encPh = .idle ∧ u.encI = 0 ∧ u.decSt = .idle ∧ u.encResult = .none ∧
      u.decResult = .none ∧ u.cmdErr = false ∧ u.cmdCause = .none ∧ u.resp = 0 ∧
      (∀ i, u.vbuf.read i = none ∧ u.pbuf.read i = none) ∧
      u.rxQueue = s.rxQueue ++ arrived ∧ u.txSent = s.txSent ∧ u.inputs = rest ∧ u.params = s.params

/-- After reset STAT_RD answers 0x00, ADDR_RD answers RESET_ADDR and ACC_READ answers 0x41 (R241), for
every choice of the parameters in their ranges. -/
def Obligations.AfterResetTheBlockIsIdle : Prop :=
  ∀ p : Params, p.wf = true →
    exec .statRd (State.resetWith p) = .next { State.resetWith p with resp := 0x00 } ∧
    exec .accRead (State.resetWith p) = .next { State.resetWith p with resp := 0x41 } ∧
    ∃ r : Byte, r.toNat = p.resetAddr ∧
      exec .addrRd (State.resetWith p) = .next { State.resetWith p with resp := r }

/-! ## The whole machine -/

/-- The reset state satisfies the invariant, for every choice of the parameters in their ranges, and
the model's own reset state is one of them. -/
def Obligations.ResetSatisfiesTheInvariant : Prop :=
  (∀ p : Params, p.wf = true → StateInv (State.resetWith p) ∧ AccTracksFrame (State.resetWith p)) ∧
  StateInv State.reset

/-- Every step keeps the invariants of R45, and the bounds of spec/10_state.md, from any state that has
them. -/
def Obligations.EveryStepKeepsTheInvariant : Prop :=
  ∀ s t : State, StateInv s → step s = .next t → StateInv t

/-- Every step keeps ACC equal to the checksum of the part of the frame seen so far, in the encoder
(R132, R133) and in the decoder (R152 to R159). -/
def Obligations.EveryStepKeepsTheChecksum : Prop :=
  ∀ s t : State, StateInv s → AccTracksFrame s → step s = .next t → AccTracksFrame t

/-- From a state with the invariant no step faults (R44: no rule reads an entry that holds no value),
and a step has a next state exactly when the input keeps the environment's contract (R91, R92, R228).
That an RX_OFFER of a byte other than the queue's head breaks it is the model's reading of R65 and R228
(entry 7). -/
def Obligations.ContractDecidesProgress : Prop :=
  ∀ (s : State) (x : Input) (rest : List Input), StateInv s → s.inputs = x :: rest →
    (∀ f, step s ≠ .fault f) ∧ ((∃ t, step s = .next t) ↔ contractHolds x s)

/-- What R44 calls unspecified is never observed: two states that agree on everything else have
outcomes of the same kind, whose next states agree again. -/
def Obligations.UnspecifiedStateIsNeverObserved : Prop :=
  ∀ s u : State, AgreeLive s u → SameOutcome AgreeLive (step s) (step u)

/-- No step changes a parameter (R8). -/
def Obligations.ParametersNeverChange : Prop :=
  ∀ s t : State, step s = .next t → t.params = s.params

/-- ADDR is written by ADDR_WR and by reset, and by nothing else (R24). -/
def Obligations.OnlyAddrWrAndResetWriteAddr : Prop :=
  ∀ s t : State, step s = .next t → t.addr ≠ s.addr →
    ∃ x rest, s.inputs = x :: rest ∧
      (x.event = .reset ∨
       ∃ w n, x.event = .cmd w ∧ decode w = .ok (.addrWr n) ∧ t.addr.toNat = n.toNat)

/-- Who writes ACC (R108, R135): reset; ACC_RESET and ACC_ADD while both engines are idle; ENC_SEND; a
transmit acknowledgement in BODY; the decoder at `:` in SEEK, at each address byte, and at each payload
byte that is not uppercase. -/
def Obligations.WritersOfAcc : Prop :=
  ∀ s t : State, step s = .next t → t.acc ≠ s.acc →
    ∃ x rest, s.inputs = x :: rest ∧
      (x.event = .reset ∨
       (∃ w i, x.event = .cmd w ∧ decode w = .ok i ∧
         (i = .accReset ∨ (∃ d, i = .accAdd d)) ∧ t.encPh = .idle ∧ t.decSt = .idle) ∨
       (∃ w v c, x.event = .cmd w ∧ decode w = .ok (.encSend v c)) ∨
       (∃ ok, x.event = .txAck ok ∧ s.encPh = .body) ∨
       (∃ b, x.event = .rxOffer b ∧
         ((s.decSt = .seek ∧ b = 0x3A) ∨ s.decSt = .addrHi ∨ s.decSt = .addrLo ∨
          (s.decSt = .payload ∧ isUpper b = false))))

/-- A result stays until the next transaction (R218): DEC_RESULT, once set, changes only by DEC_START or
reset, and ENC_RESULT only by ENC_SEND or reset. -/
def Obligations.ResultsStayUntilTheNextTransaction : Prop :=
  ∀ s t : State, StateInv s → step s = .next t →
    (s.decResult ≠ .none → t.decResult ≠ s.decResult → ∃ x rest, s.inputs = x :: rest ∧
      (x.event = .reset ∨ ∃ w, x.event = .cmd w ∧ decode w = .ok .decStart) ∧ t.decResult = .none) ∧
    (s.encResult ≠ .none → t.encResult ≠ s.encResult → ∃ x rest, s.inputs = x :: rest ∧
      (x.event = .reset ∨ ∃ w v c, x.event = .cmd w ∧ decode w = .ok (.encSend v c)) ∧
      t.encResult = .none)

/-- The transport's queues (R65, R66, R240): a step adds the arrived bytes at the end and takes at most
the head, and the transmit sink grows only by the byte on the transmit port, at TX_ACK(ok). Where the
queues stand is the model's choice (entries 7, 8). -/
def Obligations.TransportQueuesAreFifo : Prop :=
  ∀ (s t : State) (x : Input) (rest : List Input), s.inputs = x :: rest → step s = .next t →
    t.inputs = rest ∧
    (t.rxQueue = s.rxQueue ++ x.arrived ∨
      (t.rxQueue = (s.rxQueue ++ x.arrived).tail ∧
        ∃ b, x.event = .rxOffer b ∧ (s.rxQueue ++ x.arrived).head? = some b)) ∧
    (t.txSent = s.txSent ∨ ∃ b, x.event = .txAck true ∧ txByte s = .ok (some b) ∧
      t.txSent = s.txSent ++ [b])
end

