-- ==== Sys2Proof/Laws/Bytes.lean ====
section
/-! SUPPORT. The arithmetic of the checksum and of the address digits (spec/40_checksum.md R100, R101,
spec/41_encoder.md R122), as facts about natural numbers. -/

namespace Sys2Proof.Machine

/-- The sum never wraps: the remainder fits five bits. -/
@[simp] theorem accAdd_toNat (a : BitVec 5) (b : Byte) :
    (accAdd a b).toNat = (a.toNat + b.toNat) % 26 := by
  simp only [accAdd, BitVec.toNat_ofNat]
  omega

/-- Folding from any start adds the bytes' sum. -/
theorem foldl_accAdd_toNat (s : List Byte) (a : BitVec 5) (ha : a.toNat < 26) :
    (s.foldl accAdd a).toNat = (a.toNat + (s.map BitVec.toNat).sum) % 26 := by
  induction s generalizing a with
  | nil => simp; omega
  | cons b rest ih =>
    rw [List.foldl_cons, ih _ (by rw [accAdd_toNat]; omega), accAdd_toNat]
    simp only [List.map_cons, List.sum_cons]
    omega

/-- Appending one byte to the bytes summed. -/
theorem accOf_concat (s : List Byte) (b : Byte) : accOf (s ++ [b]) = accAdd (accOf s) b := by
  simp [accOf]

@[simp] theorem accOf_nil : accOf [] = 0 := rfl

/-- The letter of an accumulator value. -/
theorem ckChar_toNat (a : BitVec 5) : (ckChar a).toNat = 0x41 + a.toNat := by
  have : a.toNat < 32 := a.isLt
  have h65 : (0x41 : Byte).toNat = 0x41 := rfl
  simp only [ckChar, BitVec.toNat_add, BitVec.toNat_setWidth, h65]
  omega

/-- The code of a digit. -/
theorem digitChar_toNat {n : Nat} (h : n < 10) : (digitChar n).toNat = 0x30 + n := by
  simp only [digitChar, BitVec.toNat_ofNat]
  omega

end Sys2Proof.Machine
end

