-- ==== Sys2Proof/Laws/Decode.lean ====
section
/-! SUPPORT. The fields of a command word as numbers, and what the decoder's three formats answer. -/

namespace Sys2Proof

theorem opField_toNat (w : Word) : (opField w).toNat = w.toNat / 4096 := by
  have := w.isLt
  simp only [opField, BitVec.extractLsb'_toNat, Nat.shiftRight_eq_div_pow]
  omega

theorem flField_toNat (w : Word) : (flField w).toNat = w.toNat / 256 % 16 := by
  simp only [flField, BitVec.extractLsb'_toNat, Nat.shiftRight_eq_div_pow]

theorem dField_toNat (w : Word) : (dField w).toNat = w.toNat % 256 := by
  simp only [dField, BitVec.extractLsb'_toNat, Nat.shiftRight_zero]

theorem wordOf_toNat (op fl : BitVec 4) (d : Byte) :
    (wordOf op fl d).toNat = op.toNat * 4096 + fl.toNat * 256 + d.toNat := by
  have hfl := fl.isLt
  have hd := d.isLt
  simp only [wordOf, BitVec.toNat_append]
  rw [← Nat.shiftLeft_add_eq_or_of_lt hfl, ← Nat.shiftLeft_add_eq_or_of_lt hd]
  simp only [Nat.shiftLeft_eq]
  omega

@[simp] theorem opField_wordOf (op fl : BitVec 4) (d : Byte) : opField (wordOf op fl d) = op := by
  have := fl.isLt
  have := d.isLt
  apply BitVec.eq_of_toNat_eq
  rw [opField_toNat, wordOf_toNat]
  omega

@[simp] theorem flField_wordOf (op fl : BitVec 4) (d : Byte) : flField (wordOf op fl d) = fl := by
  have := fl.isLt
  have := d.isLt
  apply BitVec.eq_of_toNat_eq
  rw [flField_toNat, wordOf_toNat]
  omega

@[simp] theorem dField_wordOf (op fl : BitVec 4) (d : Byte) : dField (wordOf op fl d) = d := by
  have := d.isLt
  apply BitVec.eq_of_toNat_eq
  rw [dField_toNat, wordOf_toNat]
  omega

/-- A word is its three fields. -/
theorem wordOf_fields (w : Word) : wordOf (opField w) (flField w) (dField w) = w := by
  apply BitVec.eq_of_toNat_eq
  rw [wordOf_toNat, opField_toNat, flField_toNat, dField_toNat]
  omega

/-- All a command without operand can decode to. -/
theorem bareCommand_cases (w : Word) (i : Instr) :
    (flField w = 0 ∧ dField w = 0 ∧ bareCommand w i = .ok i) ∨
    (¬(flField w = 0 ∧ dField w = 0) ∧ bareCommand w i = .error .reservedField) := by
  by_cases h : flField w = 0 ∧ dField w = 0
  · exact .inl ⟨h.1, h.2, if_pos h⟩
  · exact .inr ⟨h, if_neg h⟩

/-- All a command with a byte operand can decode to. -/
theorem byteCommand_cases (w : Word) (i : Byte → Instr) :
    (flField w = 0 ∧ byteCommand w i = .ok (i (dField w))) ∨
    (flField w ≠ 0 ∧ byteCommand w i = .error .reservedField) := by
  by_cases h : flField w = 0
  · exact .inl ⟨h, if_pos h⟩
  · exact .inr ⟨h, if_neg h⟩

/-- All an ENC_SEND word can decode to. -/
theorem sendCommand_cases (w : Word) :
    ((flField w).toNat < 2 ∧
      sendCommand w = .ok (.encSend ((flField w).getLsbD 0) (dField w))) ∨
    (2 ≤ (flField w).toNat ∧ sendCommand w = .error .reservedField) := by
  have key : (flField w).extractLsb' 1 3 = 0 ↔ (flField w).toNat < 2 := by
    have := (flField w).isLt
    rw [← BitVec.toNat_inj]
    have h0 : (0 : BitVec 3).toNat = 0 := rfl
    simp only [BitVec.extractLsb'_toNat, Nat.shiftRight_eq_div_pow, h0]
    omega
  unfold sendCommand
  by_cases h : (flField w).toNat < 2
  · exact .inl ⟨h, by rw [if_pos (key.mpr h)]⟩
  · exact .inr ⟨by omega, by rw [if_neg (fun e => h (key.mp e))]⟩

end Sys2Proof
end

