-- ==== Sys2Proof/Laws/Memory.lean ====
section
/-! SUPPORT. The byte buffers (spec/20_memory.md R50, R51): read after write, and the canonical form that
every operation keeps. -/

namespace Sys2Proof.Machine

/-- A read of the entry just written gives the value written. -/
theorem Memory.read_write_same (m : Memory) (i : Nat) (b : Byte) : (m.write i b).read i = some b := by
  induction m with
  | nil => simp [Memory.write, Memory.read]
  | cons c rest ih =>
    obtain ⟨j, d⟩ := c
    unfold Memory.write
    split
    · simp [Memory.read]
    · split
      · simp [Memory.read]
      · next h => simp [Memory.read, h, ih]

/-- A write leaves every other entry alone. -/
theorem Memory.read_write_other (m : Memory) {i j : Nat} (b : Byte) (h : j ≠ i) :
    (m.write i b).read j = m.read j := by
  induction m with
  | nil => simp [Memory.write, Memory.read, h]
  | cons c rest ih =>
    obtain ⟨k, d⟩ := c
    unfold Memory.write
    split
    · simp [Memory.read, h]
    · split
      · next e => subst e; simp [Memory.read, h]
      · simp [Memory.read, ih]

/-- A write of an index at or above `lo` keeps the indices rising from `lo`. -/
theorem Memory.risingFrom_write (m : Memory) {lo i : Nat} (b : Byte) (hi : lo ≤ i)
    (h : Memory.risingFrom lo m = true) : Memory.risingFrom lo (m.write i b) = true := by
  induction m generalizing lo with
  | nil => simp [Memory.write, Memory.risingFrom, hi]
  | cons c rest ih =>
    obtain ⟨j, d⟩ := c
    simp only [Memory.risingFrom, Bool.and_eq_true, decide_eq_true_eq] at h
    unfold Memory.write
    split
    · next hlt => simp [Memory.risingFrom, hi, h.2]; omega
    · split
      · next e => subst e; simp [Memory.risingFrom, h.2, hi]
      · next h1 h2 => simp [Memory.risingFrom, h.1]; exact ih (by omega) h.2

/-- A write keeps the canonical form. -/
theorem Memory.wf_write (m : Memory) (i : Nat) (b : Byte) (h : m.wf = true) : (m.write i b).wf = true :=
  Memory.risingFrom_write m b (Nat.zero_le i) h

/-- The empty buffer, as reset leaves it (R44), is in canonical form. -/
theorem Memory.wf_nil : Memory.wf [] = true := rfl

/-- The entries after a write are the old ones and the one written. -/
theorem Memory.mem_write {m : Memory} {i : Nat} {b : Byte} {c : Host.Cell} (h : c ∈ m.write i b) :
    c = (i, b) ∨ c ∈ m := by
  induction m with
  | nil => simpa [Memory.write] using h
  | cons d rest ih =>
    obtain ⟨j, e⟩ := d
    unfold Memory.write at h
    split at h
    · simpa using h
    · split at h
      · rcases List.mem_cons.mp h with h | h <;> simp [h]
      · rcases List.mem_cons.mp h with h | h
        · simp [h]
        · rcases ih h with h | h <;> simp [h]

/-- An entry below every listed index holds no value. -/
theorem Memory.read_below {m : Memory} {lo i : Nat} (h : Memory.risingFrom lo m = true) (hi : i < lo) :
    m.read i = none := by
  induction m generalizing lo with
  | nil => rfl
  | cons c rest ih =>
    obtain ⟨j, d⟩ := c
    simp only [Memory.risingFrom, Bool.and_eq_true, decide_eq_true_eq] at h
    have : i ≠ j := by omega
    simpa [Memory.read, this] using ih h.2 (by omega)

/-- Buffers in canonical form that read alike everywhere are equal data. -/
theorem Memory.ext_of_wf {lo : Nat} {m n : Memory} (hm : Memory.risingFrom lo m = true)
    (hn : Memory.risingFrom lo n = true) (h : ∀ i, m.read i = n.read i) : m = n := by
  induction m generalizing lo n with
  | nil =>
    cases n with
    | nil => rfl
    | cons c rest => simpa [Memory.read] using h c.1
  | cons c rest ih =>
    obtain ⟨j, d⟩ := c
    cases n with
    | nil => simpa [Memory.read] using h j
    | cons c' rest' =>
      obtain ⟨k, e⟩ := c'
      simp only [Memory.risingFrom, Bool.and_eq_true, decide_eq_true_eq] at hm hn
      have hj := h j
      have hk := h k
      have hjk : j = k := by
        rcases Nat.lt_trichotomy j k with hlt | heq | hgt
        · rw [show Memory.read ((k, e) :: rest') j = none by
            have : j ≠ k := by omega
            simpa [Memory.read, this] using Memory.read_below hn.2 (by omega)] at hj
          simp [Memory.read] at hj
        · exact heq
        · rw [show Memory.read ((j, d) :: rest) k = none by
            have : k ≠ j := by omega
            simpa [Memory.read, this] using Memory.read_below hm.2 (by omega)] at hk
          simp [Memory.read] at hk
      subst hjk
      have hde : d = e := by simpa [Memory.read] using hj
      subst hde
      have : rest = rest' := by
        refine ih hm.2 hn.2 fun i => ?_
        have hi := h i
        by_cases hij : i = j
        · subst hij
          rw [Memory.read_below hm.2 (by omega), Memory.read_below hn.2 (by omega)]
        · simpa [Memory.read, hij] using hi
      rw [this]

/-- All a buffer read can do. -/
theorem readBuf_cases (cap : Nat) (m : Memory) (i : Nat) :
    (∃ b, i < cap ∧ m.read i = some b ∧ readBuf cap m i = .ok b) ∨
    (i < cap ∧ m.read i = none ∧ readBuf cap m i = .error .unwrittenRead) ∨
    (cap ≤ i ∧ readBuf cap m i = .error .bufferRange) := by
  unfold readBuf
  by_cases h : i < cap
  · cases hr : m.read i with
    | none => exact .inr (.inl ⟨h, rfl, by simp [h]⟩)
    | some b => exact .inl ⟨b, h, rfl, by simp [h]⟩
  · exact .inr (.inr ⟨by omega, by simp [h]⟩)

/-- A read of an entry that exists and holds a value. -/
theorem readBuf_ok {cap : Nat} {m : Memory} {i : Nat} {b : Byte} (h : i < cap) (hr : m.read i = some b) :
    readBuf cap m i = .ok b := by simp [readBuf, h, hr]

/-- A write inside the capacity succeeds. -/
theorem writeBuf_ok {cap : Nat} {m : Memory} {i : Nat} {b : Byte} (h : i < cap) :
    writeBuf cap m i b = .ok (m.write i b) := by simp [writeBuf, h]

/-- All a buffer write can do. -/
theorem writeBuf_cases (cap : Nat) (m : Memory) (i : Nat) (b : Byte) :
    (i < cap ∧ writeBuf cap m i b = .ok (m.write i b)) ∨
    (cap ≤ i ∧ writeBuf cap m i b = .error .bufferRange) := by
  by_cases h : i < cap
  · exact .inl ⟨h, writeBuf_ok h⟩
  · exact .inr ⟨by omega, by simp [writeBuf, h]⟩

end Sys2Proof.Machine
end

