-- ==== Sys2Proof/Laws/State.lean ====
section
/-! SUPPORT. The fields of each shared state update: one lemma per field, true by `rfl`, so that no proof
unfolds an update. For the updates that branch, the fields they never write. -/

namespace Sys2Proof.Machine

@[simp] theorem accept_params (r : Byte) (s : State) : (accept r s).params = s.params := rfl
@[simp] theorem accept_acc (r : Byte) (s : State) : (accept r s).acc = s.acc := rfl
@[simp] theorem accept_addr (r : Byte) (s : State) : (accept r s).addr = s.addr := rfl
@[simp] theorem accept_vbuf (r : Byte) (s : State) : (accept r s).vbuf = s.vbuf := rfl
@[simp] theorem accept_vlen (r : Byte) (s : State) : (accept r s).vlen = s.vlen := rfl
@[simp] theorem accept_encPh (r : Byte) (s : State) : (accept r s).encPh = s.encPh := rfl
@[simp] theorem accept_encI (r : Byte) (s : State) : (accept r s).encI = s.encI := rfl
@[simp] theorem accept_encW (r : Byte) (s : State) : (accept r s).encW = s.encW := rfl
@[simp] theorem accept_encCmd (r : Byte) (s : State) : (accept r s).encCmd = s.encCmd := rfl
@[simp] theorem accept_encResult (r : Byte) (s : State) : (accept r s).encResult = s.encResult := rfl
@[simp] theorem accept_decSt (r : Byte) (s : State) : (accept r s).decSt = s.decSt := rfl
@[simp] theorem accept_junk (r : Byte) (s : State) : (accept r s).junk = s.junk := rfl
@[simp] theorem accept_ah (r : Byte) (s : State) : (accept r s).ah = s.ah := rfl
@[simp] theorem accept_pbuf (r : Byte) (s : State) : (accept r s).pbuf = s.pbuf := rfl
@[simp] theorem accept_plen (r : Byte) (s : State) : (accept r s).plen = s.plen := rfl
@[simp] theorem accept_decResult (r : Byte) (s : State) : (accept r s).decResult = s.decResult := rfl
@[simp] theorem accept_lastT (r : Byte) (s : State) : (accept r s).lastT = s.lastT := rfl
@[simp] theorem accept_setT0 (r : Byte) (s : State) : (accept r s).setT0 = s.setT0 := rfl
@[simp] theorem accept_tPrev (r : Byte) (s : State) : (accept r s).tPrev = s.tPrev := rfl
@[simp] theorem accept_cmdErr (r : Byte) (s : State) : (accept r s).cmdErr = false := rfl
@[simp] theorem accept_cmdCause (r : Byte) (s : State) : (accept r s).cmdCause = .none := rfl
@[simp] theorem accept_resp (r : Byte) (s : State) : (accept r s).resp = r := rfl
@[simp] theorem accept_draws (r : Byte) (s : State) : (accept r s).draws = s.draws := rfl
@[simp] theorem accept_rxQueue (r : Byte) (s : State) : (accept r s).rxQueue = s.rxQueue := rfl
@[simp] theorem accept_txSent (r : Byte) (s : State) : (accept r s).txSent = s.txSent := rfl
@[simp] theorem accept_inputs (r : Byte) (s : State) : (accept r s).inputs = s.inputs := rfl

@[simp] theorem acceptQuietly_params (r : Byte) (s : State) : (acceptQuietly r s).params = s.params := rfl
@[simp] theorem acceptQuietly_acc (r : Byte) (s : State) : (acceptQuietly r s).acc = s.acc := rfl
@[simp] theorem acceptQuietly_addr (r : Byte) (s : State) : (acceptQuietly r s).addr = s.addr := rfl
@[simp] theorem acceptQuietly_vbuf (r : Byte) (s : State) : (acceptQuietly r s).vbuf = s.vbuf := rfl
@[simp] theorem acceptQuietly_vlen (r : Byte) (s : State) : (acceptQuietly r s).vlen = s.vlen := rfl
@[simp] theorem acceptQuietly_encPh (r : Byte) (s : State) : (acceptQuietly r s).encPh = s.encPh := rfl
@[simp] theorem acceptQuietly_encI (r : Byte) (s : State) : (acceptQuietly r s).encI = s.encI := rfl
@[simp] theorem acceptQuietly_encW (r : Byte) (s : State) : (acceptQuietly r s).encW = s.encW := rfl
@[simp] theorem acceptQuietly_encCmd (r : Byte) (s : State) : (acceptQuietly r s).encCmd = s.encCmd := rfl
@[simp] theorem acceptQuietly_encResult (r : Byte) (s : State) : (acceptQuietly r s).encResult = s.encResult := rfl
@[simp] theorem acceptQuietly_decSt (r : Byte) (s : State) : (acceptQuietly r s).decSt = s.decSt := rfl
@[simp] theorem acceptQuietly_junk (r : Byte) (s : State) : (acceptQuietly r s).junk = s.junk := rfl
@[simp] theorem acceptQuietly_ah (r : Byte) (s : State) : (acceptQuietly r s).ah = s.ah := rfl
@[simp] theorem acceptQuietly_pbuf (r : Byte) (s : State) : (acceptQuietly r s).pbuf = s.pbuf := rfl
@[simp] theorem acceptQuietly_plen (r : Byte) (s : State) : (acceptQuietly r s).plen = s.plen := rfl
@[simp] theorem acceptQuietly_decResult (r : Byte) (s : State) : (acceptQuietly r s).decResult = s.decResult := rfl
@[simp] theorem acceptQuietly_lastT (r : Byte) (s : State) : (acceptQuietly r s).lastT = s.lastT := rfl
@[simp] theorem acceptQuietly_setT0 (r : Byte) (s : State) : (acceptQuietly r s).setT0 = s.setT0 := rfl
@[simp] theorem acceptQuietly_tPrev (r : Byte) (s : State) : (acceptQuietly r s).tPrev = s.tPrev := rfl
@[simp] theorem acceptQuietly_cmdErr (r : Byte) (s : State) : (acceptQuietly r s).cmdErr = s.cmdErr := rfl
@[simp] theorem acceptQuietly_cmdCause (r : Byte) (s : State) : (acceptQuietly r s).cmdCause = s.cmdCause := rfl
@[simp] theorem acceptQuietly_resp (r : Byte) (s : State) : (acceptQuietly r s).resp = r := rfl
@[simp] theorem acceptQuietly_draws (r : Byte) (s : State) : (acceptQuietly r s).draws = s.draws := rfl
@[simp] theorem acceptQuietly_rxQueue (r : Byte) (s : State) : (acceptQuietly r s).rxQueue = s.rxQueue := rfl
@[simp] theorem acceptQuietly_txSent (r : Byte) (s : State) : (acceptQuietly r s).txSent = s.txSent := rfl
@[simp] theorem acceptQuietly_inputs (r : Byte) (s : State) : (acceptQuietly r s).inputs = s.inputs := rfl

@[simp] theorem refuse_params (c : Cause) (s : State) : (refuse c s).params = s.params := rfl
@[simp] theorem refuse_acc (c : Cause) (s : State) : (refuse c s).acc = s.acc := rfl
@[simp] theorem refuse_addr (c : Cause) (s : State) : (refuse c s).addr = s.addr := rfl
@[simp] theorem refuse_vbuf (c : Cause) (s : State) : (refuse c s).vbuf = s.vbuf := rfl
@[simp] theorem refuse_vlen (c : Cause) (s : State) : (refuse c s).vlen = s.vlen := rfl
@[simp] theorem refuse_encPh (c : Cause) (s : State) : (refuse c s).encPh = s.encPh := rfl
@[simp] theorem refuse_encI (c : Cause) (s : State) : (refuse c s).encI = s.encI := rfl
@[simp] theorem refuse_encW (c : Cause) (s : State) : (refuse c s).encW = s.encW := rfl
@[simp] theorem refuse_encCmd (c : Cause) (s : State) : (refuse c s).encCmd = s.encCmd := rfl
@[simp] theorem refuse_encResult (c : Cause) (s : State) : (refuse c s).encResult = s.encResult := rfl
@[simp] theorem refuse_decSt (c : Cause) (s : State) : (refuse c s).decSt = s.decSt := rfl
@[simp] theorem refuse_junk (c : Cause) (s : State) : (refuse c s).junk = s.junk := rfl
@[simp] theorem refuse_ah (c : Cause) (s : State) : (refuse c s).ah = s.ah := rfl
@[simp] theorem refuse_pbuf (c : Cause) (s : State) : (refuse c s).pbuf = s.pbuf := rfl
@[simp] theorem refuse_plen (c : Cause) (s : State) : (refuse c s).plen = s.plen := rfl
@[simp] theorem refuse_decResult (c : Cause) (s : State) : (refuse c s).decResult = s.decResult := rfl
@[simp] theorem refuse_lastT (c : Cause) (s : State) : (refuse c s).lastT = s.lastT := rfl
@[simp] theorem refuse_setT0 (c : Cause) (s : State) : (refuse c s).setT0 = s.setT0 := rfl
@[simp] theorem refuse_tPrev (c : Cause) (s : State) : (refuse c s).tPrev = s.tPrev := rfl
@[simp] theorem refuse_cmdErr (c : Cause) (s : State) : (refuse c s).cmdErr = true := rfl
@[simp] theorem refuse_cmdCause (c : Cause) (s : State) : (refuse c s).cmdCause = c := rfl
@[simp] theorem refuse_resp (c : Cause) (s : State) : (refuse c s).resp = 0 := rfl
@[simp] theorem refuse_draws (c : Cause) (s : State) : (refuse c s).draws = s.draws := rfl
@[simp] theorem refuse_rxQueue (c : Cause) (s : State) : (refuse c s).rxQueue = s.rxQueue := rfl
@[simp] theorem refuse_txSent (c : Cause) (s : State) : (refuse c s).txSent = s.txSent := rfl
@[simp] theorem refuse_inputs (c : Cause) (s : State) : (refuse c s).inputs = s.inputs := rfl

@[simp] theorem finish_params (r : DecResult) (s : State) : (finish r s).params = s.params := rfl
@[simp] theorem finish_acc (r : DecResult) (s : State) : (finish r s).acc = s.acc := rfl
@[simp] theorem finish_addr (r : DecResult) (s : State) : (finish r s).addr = s.addr := rfl
@[simp] theorem finish_vbuf (r : DecResult) (s : State) : (finish r s).vbuf = s.vbuf := rfl
@[simp] theorem finish_vlen (r : DecResult) (s : State) : (finish r s).vlen = s.vlen := rfl
@[simp] theorem finish_encPh (r : DecResult) (s : State) : (finish r s).encPh = s.encPh := rfl
@[simp] theorem finish_encI (r : DecResult) (s : State) : (finish r s).encI = s.encI := rfl
@[simp] theorem finish_encW (r : DecResult) (s : State) : (finish r s).encW = s.encW := rfl
@[simp] theorem finish_encCmd (r : DecResult) (s : State) : (finish r s).encCmd = s.encCmd := rfl
@[simp] theorem finish_encResult (r : DecResult) (s : State) : (finish r s).encResult = s.encResult := rfl
@[simp] theorem finish_decSt (r : DecResult) (s : State) : (finish r s).decSt = .idle := rfl
@[simp] theorem finish_junk (r : DecResult) (s : State) : (finish r s).junk = s.junk := rfl
@[simp] theorem finish_ah (r : DecResult) (s : State) : (finish r s).ah = s.ah := rfl
@[simp] theorem finish_pbuf (r : DecResult) (s : State) : (finish r s).pbuf = s.pbuf := rfl
@[simp] theorem finish_plen (r : DecResult) (s : State) : (finish r s).plen = s.plen := rfl
@[simp] theorem finish_decResult (r : DecResult) (s : State) : (finish r s).decResult = r := rfl
@[simp] theorem finish_lastT (r : DecResult) (s : State) : (finish r s).lastT = s.lastT := rfl
@[simp] theorem finish_setT0 (r : DecResult) (s : State) : (finish r s).setT0 = s.setT0 := rfl
@[simp] theorem finish_tPrev (r : DecResult) (s : State) : (finish r s).tPrev = s.tPrev := rfl
@[simp] theorem finish_cmdErr (r : DecResult) (s : State) : (finish r s).cmdErr = s.cmdErr := rfl
@[simp] theorem finish_cmdCause (r : DecResult) (s : State) : (finish r s).cmdCause = s.cmdCause := rfl
@[simp] theorem finish_resp (r : DecResult) (s : State) : (finish r s).resp = s.resp := rfl
@[simp] theorem finish_draws (r : DecResult) (s : State) : (finish r s).draws = s.draws := rfl
@[simp] theorem finish_rxQueue (r : DecResult) (s : State) : (finish r s).rxQueue = s.rxQueue := rfl
@[simp] theorem finish_txSent (r : DecResult) (s : State) : (finish r s).txSent = s.txSent := rfl
@[simp] theorem finish_inputs (r : DecResult) (s : State) : (finish r s).inputs = s.inputs := rfl

@[simp] theorem takeByte_params (s : State) : (takeByte s).params = s.params := rfl
@[simp] theorem takeByte_acc (s : State) : (takeByte s).acc = s.acc := rfl
@[simp] theorem takeByte_addr (s : State) : (takeByte s).addr = s.addr := rfl
@[simp] theorem takeByte_vbuf (s : State) : (takeByte s).vbuf = s.vbuf := rfl
@[simp] theorem takeByte_vlen (s : State) : (takeByte s).vlen = s.vlen := rfl
@[simp] theorem takeByte_encPh (s : State) : (takeByte s).encPh = s.encPh := rfl
@[simp] theorem takeByte_encI (s : State) : (takeByte s).encI = s.encI := rfl
@[simp] theorem takeByte_encW (s : State) : (takeByte s).encW = s.encW := rfl
@[simp] theorem takeByte_encCmd (s : State) : (takeByte s).encCmd = s.encCmd := rfl
@[simp] theorem takeByte_encResult (s : State) : (takeByte s).encResult = s.encResult := rfl
@[simp] theorem takeByte_decSt (s : State) : (takeByte s).decSt = s.decSt := rfl
@[simp] theorem takeByte_junk (s : State) : (takeByte s).junk = s.junk := rfl
@[simp] theorem takeByte_ah (s : State) : (takeByte s).ah = s.ah := rfl
@[simp] theorem takeByte_pbuf (s : State) : (takeByte s).pbuf = s.pbuf := rfl
@[simp] theorem takeByte_plen (s : State) : (takeByte s).plen = s.plen := rfl
@[simp] theorem takeByte_decResult (s : State) : (takeByte s).decResult = s.decResult := rfl
@[simp] theorem takeByte_lastT (s : State) : (takeByte s).lastT = s.lastT := rfl
@[simp] theorem takeByte_setT0 (s : State) : (takeByte s).setT0 = s.setT0 := rfl
@[simp] theorem takeByte_tPrev (s : State) : (takeByte s).tPrev = s.tPrev := rfl
@[simp] theorem takeByte_cmdErr (s : State) : (takeByte s).cmdErr = s.cmdErr := rfl
@[simp] theorem takeByte_cmdCause (s : State) : (takeByte s).cmdCause = s.cmdCause := rfl
@[simp] theorem takeByte_resp (s : State) : (takeByte s).resp = s.resp := rfl
@[simp] theorem takeByte_draws (s : State) : (takeByte s).draws = s.draws := rfl
@[simp] theorem takeByte_rxQueue (s : State) : (takeByte s).rxQueue = s.rxQueue.tail := rfl
@[simp] theorem takeByte_txSent (s : State) : (takeByte s).txSent = s.txSent := rfl
@[simp] theorem takeByte_inputs (s : State) : (takeByte s).inputs = s.inputs := rfl

@[simp] theorem arrive_params (bs : List Byte) (s : State) : (arrive bs s).params = s.params := rfl
@[simp] theorem arrive_acc (bs : List Byte) (s : State) : (arrive bs s).acc = s.acc := rfl
@[simp] theorem arrive_addr (bs : List Byte) (s : State) : (arrive bs s).addr = s.addr := rfl
@[simp] theorem arrive_vbuf (bs : List Byte) (s : State) : (arrive bs s).vbuf = s.vbuf := rfl
@[simp] theorem arrive_vlen (bs : List Byte) (s : State) : (arrive bs s).vlen = s.vlen := rfl
@[simp] theorem arrive_encPh (bs : List Byte) (s : State) : (arrive bs s).encPh = s.encPh := rfl
@[simp] theorem arrive_encI (bs : List Byte) (s : State) : (arrive bs s).encI = s.encI := rfl
@[simp] theorem arrive_encW (bs : List Byte) (s : State) : (arrive bs s).encW = s.encW := rfl
@[simp] theorem arrive_encCmd (bs : List Byte) (s : State) : (arrive bs s).encCmd = s.encCmd := rfl
@[simp] theorem arrive_encResult (bs : List Byte) (s : State) : (arrive bs s).encResult = s.encResult := rfl
@[simp] theorem arrive_decSt (bs : List Byte) (s : State) : (arrive bs s).decSt = s.decSt := rfl
@[simp] theorem arrive_junk (bs : List Byte) (s : State) : (arrive bs s).junk = s.junk := rfl
@[simp] theorem arrive_ah (bs : List Byte) (s : State) : (arrive bs s).ah = s.ah := rfl
@[simp] theorem arrive_pbuf (bs : List Byte) (s : State) : (arrive bs s).pbuf = s.pbuf := rfl
@[simp] theorem arrive_plen (bs : List Byte) (s : State) : (arrive bs s).plen = s.plen := rfl
@[simp] theorem arrive_decResult (bs : List Byte) (s : State) : (arrive bs s).decResult = s.decResult := rfl
@[simp] theorem arrive_lastT (bs : List Byte) (s : State) : (arrive bs s).lastT = s.lastT := rfl
@[simp] theorem arrive_setT0 (bs : List Byte) (s : State) : (arrive bs s).setT0 = s.setT0 := rfl
@[simp] theorem arrive_tPrev (bs : List Byte) (s : State) : (arrive bs s).tPrev = s.tPrev := rfl
@[simp] theorem arrive_cmdErr (bs : List Byte) (s : State) : (arrive bs s).cmdErr = s.cmdErr := rfl
@[simp] theorem arrive_cmdCause (bs : List Byte) (s : State) : (arrive bs s).cmdCause = s.cmdCause := rfl
@[simp] theorem arrive_resp (bs : List Byte) (s : State) : (arrive bs s).resp = s.resp := rfl
@[simp] theorem arrive_draws (bs : List Byte) (s : State) : (arrive bs s).draws = s.draws := rfl
@[simp] theorem arrive_rxQueue (bs : List Byte) (s : State) : (arrive bs s).rxQueue = s.rxQueue ++ bs := rfl
@[simp] theorem arrive_txSent (bs : List Byte) (s : State) : (arrive bs s).txSent = s.txSent := rfl
@[simp] theorem arrive_inputs (bs : List Byte) (s : State) : (arrive bs s).inputs = s.inputs := rfl

@[simp] theorem presentWord_params (w : Word) (s : State) : (presentWord w s).params = s.params := rfl
@[simp] theorem presentWord_acc (w : Word) (s : State) : (presentWord w s).acc = s.acc := rfl
@[simp] theorem presentWord_addr (w : Word) (s : State) : (presentWord w s).addr = s.addr := rfl
@[simp] theorem presentWord_vbuf (w : Word) (s : State) : (presentWord w s).vbuf = s.vbuf := rfl
@[simp] theorem presentWord_vlen (w : Word) (s : State) : (presentWord w s).vlen = s.vlen := rfl
@[simp] theorem presentWord_encPh (w : Word) (s : State) : (presentWord w s).encPh = s.encPh := rfl
@[simp] theorem presentWord_encI (w : Word) (s : State) : (presentWord w s).encI = s.encI := rfl
@[simp] theorem presentWord_encW (w : Word) (s : State) : (presentWord w s).encW = s.encW := rfl
@[simp] theorem presentWord_encCmd (w : Word) (s : State) : (presentWord w s).encCmd = s.encCmd := rfl
@[simp] theorem presentWord_encResult (w : Word) (s : State) : (presentWord w s).encResult = s.encResult := rfl
@[simp] theorem presentWord_decSt (w : Word) (s : State) : (presentWord w s).decSt = s.decSt := rfl
@[simp] theorem presentWord_junk (w : Word) (s : State) : (presentWord w s).junk = s.junk := rfl
@[simp] theorem presentWord_ah (w : Word) (s : State) : (presentWord w s).ah = s.ah := rfl
@[simp] theorem presentWord_pbuf (w : Word) (s : State) : (presentWord w s).pbuf = s.pbuf := rfl
@[simp] theorem presentWord_plen (w : Word) (s : State) : (presentWord w s).plen = s.plen := rfl
@[simp] theorem presentWord_decResult (w : Word) (s : State) : (presentWord w s).decResult = s.decResult := rfl
@[simp] theorem presentWord_lastT (w : Word) (s : State) : (presentWord w s).lastT = s.lastT := rfl
@[simp] theorem presentWord_setT0 (w : Word) (s : State) : (presentWord w s).setT0 = s.setT0 := rfl
@[simp] theorem presentWord_tPrev (w : Word) (s : State) : (presentWord w s).tPrev = s.tPrev := rfl
@[simp] theorem presentWord_cmdErr (w : Word) (s : State) : (presentWord w s).cmdErr = s.cmdErr := rfl
@[simp] theorem presentWord_cmdCause (w : Word) (s : State) : (presentWord w s).cmdCause = s.cmdCause := rfl
@[simp] theorem presentWord_resp (w : Word) (s : State) : (presentWord w s).resp = s.resp := rfl
@[simp] theorem presentWord_draws (w : Word) (s : State) : (presentWord w s).draws = s.draws := rfl
@[simp] theorem presentWord_rxQueue (w : Word) (s : State) : (presentWord w s).rxQueue = s.rxQueue := rfl
@[simp] theorem presentWord_txSent (w : Word) (s : State) : (presentWord w s).txSent = s.txSent := rfl
@[simp] theorem presentWord_inputs (w : Word) (s : State) : (presentWord w s).inputs = ⟨s.tPrev, [], .cmd w⟩ :: s.inputs := rfl

@[simp] theorem enterSettle_params (t : Nat) (s : State) : (enterSettle t s).params = s.params := by
  unfold enterSettle; split <;> rfl
@[simp] theorem enterSettle_acc (t : Nat) (s : State) : (enterSettle t s).acc = s.acc := by
  unfold enterSettle; split <;> rfl
@[simp] theorem enterSettle_addr (t : Nat) (s : State) : (enterSettle t s).addr = s.addr := by
  unfold enterSettle; split <;> rfl
@[simp] theorem enterSettle_vbuf (t : Nat) (s : State) : (enterSettle t s).vbuf = s.vbuf := by
  unfold enterSettle; split <;> rfl
@[simp] theorem enterSettle_vlen (t : Nat) (s : State) : (enterSettle t s).vlen = s.vlen := by
  unfold enterSettle; split <;> rfl
@[simp] theorem enterSettle_encPh (t : Nat) (s : State) : (enterSettle t s).encPh = s.encPh := by
  unfold enterSettle; split <;> rfl
@[simp] theorem enterSettle_encI (t : Nat) (s : State) : (enterSettle t s).encI = s.encI := by
  unfold enterSettle; split <;> rfl
@[simp] theorem enterSettle_encW (t : Nat) (s : State) : (enterSettle t s).encW = s.encW := by
  unfold enterSettle; split <;> rfl
@[simp] theorem enterSettle_encCmd (t : Nat) (s : State) : (enterSettle t s).encCmd = s.encCmd := by
  unfold enterSettle; split <;> rfl
@[simp] theorem enterSettle_encResult (t : Nat) (s : State) : (enterSettle t s).encResult = s.encResult := by
  unfold enterSettle; split <;> rfl
@[simp] theorem enterSettle_junk (t : Nat) (s : State) : (enterSettle t s).junk = s.junk := by
  unfold enterSettle; split <;> rfl
@[simp] theorem enterSettle_ah (t : Nat) (s : State) : (enterSettle t s).ah = s.ah := by
  unfold enterSettle; split <;> rfl
@[simp] theorem enterSettle_pbuf (t : Nat) (s : State) : (enterSettle t s).pbuf = s.pbuf := by
  unfold enterSettle; split <;> rfl
@[simp] theorem enterSettle_plen (t : Nat) (s : State) : (enterSettle t s).plen = s.plen := by
  unfold enterSettle; split <;> rfl
@[simp] theorem enterSettle_lastT (t : Nat) (s : State) : (enterSettle t s).lastT = s.lastT := by
  unfold enterSettle; split <;> rfl
@[simp] theorem enterSettle_tPrev (t : Nat) (s : State) : (enterSettle t s).tPrev = s.tPrev := by
  unfold enterSettle; split <;> rfl
@[simp] theorem enterSettle_cmdErr (t : Nat) (s : State) : (enterSettle t s).cmdErr = s.cmdErr := by
  unfold enterSettle; split <;> rfl
@[simp] theorem enterSettle_cmdCause (t : Nat) (s : State) : (enterSettle t s).cmdCause = s.cmdCause := by
  unfold enterSettle; split <;> rfl
@[simp] theorem enterSettle_resp (t : Nat) (s : State) : (enterSettle t s).resp = s.resp := by
  unfold enterSettle; split <;> rfl
@[simp] theorem enterSettle_draws (t : Nat) (s : State) : (enterSettle t s).draws = s.draws := by
  unfold enterSettle; split <;> rfl
@[simp] theorem enterSettle_rxQueue (t : Nat) (s : State) : (enterSettle t s).rxQueue = s.rxQueue := by
  unfold enterSettle; split <;> rfl
@[simp] theorem enterSettle_txSent (t : Nat) (s : State) : (enterSettle t s).txSent = s.txSent := by
  unfold enterSettle; split <;> rfl
@[simp] theorem enterSettle_inputs (t : Nat) (s : State) : (enterSettle t s).inputs = s.inputs := by
  unfold enterSettle; split <;> rfl

@[simp] theorem timerPhase_params (t : Nat) (s : State) : (timerPhase t s).params = s.params := by
  unfold timerPhase; split <;> first | rfl | (split <;> first | rfl | exact enterSettle_params t s)
@[simp] theorem timerPhase_acc (t : Nat) (s : State) : (timerPhase t s).acc = s.acc := by
  unfold timerPhase; split <;> first | rfl | (split <;> first | rfl | exact enterSettle_acc t s)
@[simp] theorem timerPhase_addr (t : Nat) (s : State) : (timerPhase t s).addr = s.addr := by
  unfold timerPhase; split <;> first | rfl | (split <;> first | rfl | exact enterSettle_addr t s)
@[simp] theorem timerPhase_vbuf (t : Nat) (s : State) : (timerPhase t s).vbuf = s.vbuf := by
  unfold timerPhase; split <;> first | rfl | (split <;> first | rfl | exact enterSettle_vbuf t s)
@[simp] theorem timerPhase_vlen (t : Nat) (s : State) : (timerPhase t s).vlen = s.vlen := by
  unfold timerPhase; split <;> first | rfl | (split <;> first | rfl | exact enterSettle_vlen t s)
@[simp] theorem timerPhase_encPh (t : Nat) (s : State) : (timerPhase t s).encPh = s.encPh := by
  unfold timerPhase; split <;> first | rfl | (split <;> first | rfl | exact enterSettle_encPh t s)
@[simp] theorem timerPhase_encI (t : Nat) (s : State) : (timerPhase t s).encI = s.encI := by
  unfold timerPhase; split <;> first | rfl | (split <;> first | rfl | exact enterSettle_encI t s)
@[simp] theorem timerPhase_encW (t : Nat) (s : State) : (timerPhase t s).encW = s.encW := by
  unfold timerPhase; split <;> first | rfl | (split <;> first | rfl | exact enterSettle_encW t s)
@[simp] theorem timerPhase_encCmd (t : Nat) (s : State) : (timerPhase t s).encCmd = s.encCmd := by
  unfold timerPhase; split <;> first | rfl | (split <;> first | rfl | exact enterSettle_encCmd t s)
@[simp] theorem timerPhase_encResult (t : Nat) (s : State) : (timerPhase t s).encResult = s.encResult := by
  unfold timerPhase; split <;> first | rfl | (split <;> first | rfl | exact enterSettle_encResult t s)
@[simp] theorem timerPhase_junk (t : Nat) (s : State) : (timerPhase t s).junk = s.junk := by
  unfold timerPhase; split <;> first | rfl | (split <;> first | rfl | exact enterSettle_junk t s)
@[simp] theorem timerPhase_ah (t : Nat) (s : State) : (timerPhase t s).ah = s.ah := by
  unfold timerPhase; split <;> first | rfl | (split <;> first | rfl | exact enterSettle_ah t s)
@[simp] theorem timerPhase_pbuf (t : Nat) (s : State) : (timerPhase t s).pbuf = s.pbuf := by
  unfold timerPhase; split <;> first | rfl | (split <;> first | rfl | exact enterSettle_pbuf t s)
@[simp] theorem timerPhase_plen (t : Nat) (s : State) : (timerPhase t s).plen = s.plen := by
  unfold timerPhase; split <;> first | rfl | (split <;> first | rfl | exact enterSettle_plen t s)
@[simp] theorem timerPhase_lastT (t : Nat) (s : State) : (timerPhase t s).lastT = s.lastT := by
  unfold timerPhase; split <;> first | rfl | (split <;> first | rfl | exact enterSettle_lastT t s)
@[simp] theorem timerPhase_tPrev (t : Nat) (s : State) : (timerPhase t s).tPrev = s.tPrev := by
  unfold timerPhase; split <;> first | rfl | (split <;> first | rfl | exact enterSettle_tPrev t s)
@[simp] theorem timerPhase_cmdErr (t : Nat) (s : State) : (timerPhase t s).cmdErr = s.cmdErr := by
  unfold timerPhase; split <;> first | rfl | (split <;> first | rfl | exact enterSettle_cmdErr t s)
@[simp] theorem timerPhase_cmdCause (t : Nat) (s : State) : (timerPhase t s).cmdCause = s.cmdCause := by
  unfold timerPhase; split <;> first | rfl | (split <;> first | rfl | exact enterSettle_cmdCause t s)
@[simp] theorem timerPhase_resp (t : Nat) (s : State) : (timerPhase t s).resp = s.resp := by
  unfold timerPhase; split <;> first | rfl | (split <;> first | rfl | exact enterSettle_resp t s)
@[simp] theorem timerPhase_draws (t : Nat) (s : State) : (timerPhase t s).draws = s.draws := by
  unfold timerPhase; split <;> first | rfl | (split <;> first | rfl | exact enterSettle_draws t s)
@[simp] theorem timerPhase_rxQueue (t : Nat) (s : State) : (timerPhase t s).rxQueue = s.rxQueue := by
  unfold timerPhase; split <;> first | rfl | (split <;> first | rfl | exact enterSettle_rxQueue t s)
@[simp] theorem timerPhase_txSent (t : Nat) (s : State) : (timerPhase t s).txSent = s.txSent := by
  unfold timerPhase; split <;> first | rfl | (split <;> first | rfl | exact enterSettle_txSent t s)
@[simp] theorem timerPhase_inputs (t : Nat) (s : State) : (timerPhase t s).inputs = s.inputs := by
  unfold timerPhase; split <;> first | rfl | (split <;> first | rfl | exact enterSettle_inputs t s)

@[simp] theorem advanceTime_params (t : Nat) (s : State) : (advanceTime t s).params = s.params :=
  timerPhase_params t _
@[simp] theorem advanceTime_acc (t : Nat) (s : State) : (advanceTime t s).acc = s.acc :=
  timerPhase_acc t _
@[simp] theorem advanceTime_addr (t : Nat) (s : State) : (advanceTime t s).addr = s.addr :=
  timerPhase_addr t _
@[simp] theorem advanceTime_vbuf (t : Nat) (s : State) : (advanceTime t s).vbuf = s.vbuf :=
  timerPhase_vbuf t _
@[simp] theorem advanceTime_vlen (t : Nat) (s : State) : (advanceTime t s).vlen = s.vlen :=
  timerPhase_vlen t _
@[simp] theorem advanceTime_encPh (t : Nat) (s : State) : (advanceTime t s).encPh = s.encPh :=
  timerPhase_encPh t _
@[simp] theorem advanceTime_encI (t : Nat) (s : State) : (advanceTime t s).encI = s.encI :=
  timerPhase_encI t _
@[simp] theorem advanceTime_encW (t : Nat) (s : State) : (advanceTime t s).encW = s.encW :=
  timerPhase_encW t _
@[simp] theorem advanceTime_encCmd (t : Nat) (s : State) : (advanceTime t s).encCmd = s.encCmd :=
  timerPhase_encCmd t _
@[simp] theorem advanceTime_encResult (t : Nat) (s : State) : (advanceTime t s).encResult = s.encResult :=
  timerPhase_encResult t _
@[simp] theorem advanceTime_junk (t : Nat) (s : State) : (advanceTime t s).junk = s.junk :=
  timerPhase_junk t _
@[simp] theorem advanceTime_ah (t : Nat) (s : State) : (advanceTime t s).ah = s.ah :=
  timerPhase_ah t _
@[simp] theorem advanceTime_pbuf (t : Nat) (s : State) : (advanceTime t s).pbuf = s.pbuf :=
  timerPhase_pbuf t _
@[simp] theorem advanceTime_plen (t : Nat) (s : State) : (advanceTime t s).plen = s.plen :=
  timerPhase_plen t _
@[simp] theorem advanceTime_lastT (t : Nat) (s : State) : (advanceTime t s).lastT = s.lastT :=
  timerPhase_lastT t _
@[simp] theorem advanceTime_tPrev (t : Nat) (s : State) : (advanceTime t s).tPrev = t :=
  timerPhase_tPrev t _
@[simp] theorem advanceTime_cmdErr (t : Nat) (s : State) : (advanceTime t s).cmdErr = s.cmdErr :=
  timerPhase_cmdErr t _
@[simp] theorem advanceTime_cmdCause (t : Nat) (s : State) : (advanceTime t s).cmdCause = s.cmdCause :=
  timerPhase_cmdCause t _
@[simp] theorem advanceTime_resp (t : Nat) (s : State) : (advanceTime t s).resp = s.resp :=
  timerPhase_resp t _
@[simp] theorem advanceTime_draws (t : Nat) (s : State) : (advanceTime t s).draws = s.draws :=
  timerPhase_draws t _
@[simp] theorem advanceTime_rxQueue (t : Nat) (s : State) : (advanceTime t s).rxQueue = s.rxQueue :=
  timerPhase_rxQueue t _
@[simp] theorem advanceTime_txSent (t : Nat) (s : State) : (advanceTime t s).txSent = s.txSent :=
  timerPhase_txSent t _
@[simp] theorem advanceTime_inputs (t : Nat) (s : State) : (advanceTime t s).inputs = s.inputs :=
  timerPhase_inputs t _

@[simp] theorem hardReset_params (s : State) : (hardReset s).params = s.params := rfl
@[simp] theorem hardReset_acc (s : State) : (hardReset s).acc = 0 := rfl
@[simp] theorem hardReset_addr (s : State) : (hardReset s).addr = BitVec.ofNat 7 s.params.resetAddr := rfl
@[simp] theorem hardReset_vbuf (s : State) : (hardReset s).vbuf = [] := rfl
@[simp] theorem hardReset_vlen (s : State) : (hardReset s).vlen = 0 := rfl
@[simp] theorem hardReset_encPh (s : State) : (hardReset s).encPh = .idle := rfl
@[simp] theorem hardReset_encI (s : State) : (hardReset s).encI = 0 := rfl
@[simp] theorem hardReset_encW (s : State) : (hardReset s).encW = false := rfl
@[simp] theorem hardReset_encCmd (s : State) : (hardReset s).encCmd = 0 := rfl
@[simp] theorem hardReset_encResult (s : State) : (hardReset s).encResult = .none := rfl
@[simp] theorem hardReset_decSt (s : State) : (hardReset s).decSt = .idle := rfl
@[simp] theorem hardReset_junk (s : State) : (hardReset s).junk = 0 := rfl
@[simp] theorem hardReset_ah (s : State) : (hardReset s).ah = 0 := rfl
@[simp] theorem hardReset_pbuf (s : State) : (hardReset s).pbuf = [] := rfl
@[simp] theorem hardReset_plen (s : State) : (hardReset s).plen = 0 := rfl
@[simp] theorem hardReset_decResult (s : State) : (hardReset s).decResult = .none := rfl
@[simp] theorem hardReset_lastT (s : State) : (hardReset s).lastT = 0 := rfl
@[simp] theorem hardReset_setT0 (s : State) : (hardReset s).setT0 = 0 := rfl
@[simp] theorem hardReset_tPrev (s : State) : (hardReset s).tPrev = 0 := rfl
@[simp] theorem hardReset_cmdErr (s : State) : (hardReset s).cmdErr = false := rfl
@[simp] theorem hardReset_cmdCause (s : State) : (hardReset s).cmdCause = .none := rfl
@[simp] theorem hardReset_resp (s : State) : (hardReset s).resp = 0 := rfl
@[simp] theorem hardReset_draws (s : State) : (hardReset s).draws = s.draws := rfl
@[simp] theorem hardReset_rxQueue (s : State) : (hardReset s).rxQueue = s.rxQueue := rfl
@[simp] theorem hardReset_txSent (s : State) : (hardReset s).txSent = s.txSent := rfl
@[simp] theorem hardReset_inputs (s : State) : (hardReset s).inputs = s.inputs := rfl

end Sys2Proof.Machine
end

