-- ==== Sys2Proof/Laws/Ops.lean ====
section
/-! SUPPORT. For each shared operation of the machine one lemma that says everything it can do, to be
cited in place of its definition. -/

namespace Sys2Proof.Machine

theorem encBusy_eq_true {s : State} : encBusy s = true ↔ s.encPh ≠ .idle := by simp [encBusy]

theorem decBusy_eq_true {s : State} : decBusy s = true ↔ s.decSt ≠ .idle := by simp [decBusy]

theorem anyBusy_eq_true {s : State} : anyBusy s = true ↔ s.encPh ≠ .idle ∨ s.decSt ≠ .idle := by
  simp [anyBusy, encBusy, decBusy]

/-- The reading states (R160). -/
theorem reading_eq_true {s : State} : reading s = true ↔
    s.decSt = .seek ∨ s.decSt = .addrHi ∨ s.decSt = .addrLo ∨ s.decSt = .payload := by
  unfold reading; cases s.decSt <;> simp

/-- All `enter_settle` can do (R163). -/
theorem enterSettle_cases (t : Nat) (s : State) :
    (s.params.settleDelay = 0 ∧
      enterSettle t s = { s with decSt := .idle, setT0 := t, decResult := .frameOk }) ∨
    (s.params.settleDelay ≠ 0 ∧ enterSettle t s = { s with decSt := .settle, setT0 := t }) := by
  unfold enterSettle
  split
  · next h => exact .inl ⟨h, rfl⟩
  · next h => exact .inr ⟨h, rfl⟩

/-- All the timer phase can do (R160). -/
theorem timerPhase_cases (t : Nat) (s : State) :
    timerPhase t s = s ∨
    (reading s = true ∧ s.params.charTimeout ≤ t - s.lastT ∧
      timerPhase t s = { s with decSt := .idle, decResult := .timeout }) ∨
    (s.decSt = .swallow ∧ s.params.charTimeout ≤ t - s.lastT ∧ timerPhase t s = enterSettle t s) ∨
    (s.decSt = .settle ∧ s.params.settleDelay ≤ t - s.setT0 ∧
      timerPhase t s = { s with decSt := .idle, decResult := .frameOk }) := by
  unfold timerPhase
  split <;> rename_i h <;> (try split) <;>
    simp_all [reading, charExpired, settleExpired, finish]

/-- The timer phase does nothing while no timer has expired (R160). -/
theorem timerPhase_waiting {t : Nat} {s : State}
    (h : reading s = true ∨ s.decSt = .swallow → t - s.lastT < s.params.charTimeout)
    (h' : s.decSt = .settle → t - s.setT0 < s.params.settleDelay) : timerPhase t s = s := by
  rcases timerPhase_cases t s with e | ⟨h1, h2, _⟩ | ⟨h1, h2, _⟩ | ⟨h1, h2, _⟩
  · exact e
  · have := h (.inl h1); omega
  · have := h (.inr h1); omega
  · have := h' h1; omega

/-- All the encoder's advance can do (R132, R133, R134). -/
theorem advanceFrame_cases (b : Byte) (s : State) :
    (s.encPh = .idle ∧ advanceFrame b s = s) ∨
    (s.encPh = .body ∧ s.encI + 1 ≠ bodyLength s ∧
      advanceFrame b s = { s with acc := accAdd s.acc b, encI := s.encI + 1 }) ∨
    (s.encPh = .body ∧ s.encI + 1 = bodyLength s ∧
      advanceFrame b s = { s with acc := accAdd s.acc b, encPh := .ck, encI := 0 }) ∨
    (s.encPh = .ck ∧ advanceFrame b s = { s with encPh := .term, encI := 0 }) ∨
    (s.encPh = .term ∧ s.encI + 1 ≠ (termBytes s.params.txTerm).length ∧
      advanceFrame b s = { s with encI := s.encI + 1 }) ∨
    (s.encPh = .term ∧ s.encI + 1 = (termBytes s.params.txTerm).length ∧
      advanceFrame b s =
        { s with encPh := .idle, encI := 0, encResult := .sent, vlen := 0 }) := by
  unfold advanceFrame
  split <;> rename_i h <;> (try split) <;> simp_all

/-- All SEEK does with a byte (R152, R153). -/
theorem rxSeek_cases (b : Byte) (s : State) :
    (b = asciiColon ∧ rxSeek b s =
      { s with
        rxQueue := s.rxQueue.tail, lastT := s.tPrev, acc := accAdd 0 b, decSt := .addrHi }) ∨
    (b ≠ asciiColon ∧ s.junk + 1 ≠ s.params.junkBudget ∧ rxSeek b s =
      { s with rxQueue := s.rxQueue.tail, lastT := s.tPrev, junk := s.junk + 1 }) ∨
    (b ≠ asciiColon ∧ s.junk + 1 = s.params.junkBudget ∧ rxSeek b s =
      { s with
        rxQueue := s.rxQueue.tail, lastT := s.tPrev, junk := s.junk + 1
        decSt := .idle, decResult := .junkOverflow }) := by
  unfold rxSeek
  by_cases h : b = asciiColon
  · exact .inl ⟨h, by simp [h, takeByte]⟩
  · by_cases h' : s.junk + 1 = s.params.junkBudget
    · exact .inr (.inr ⟨h, h', by simp [h, h', takeByte, finish]⟩)
    · exact .inr (.inl ⟨h, h', by simp [h, h', takeByte]⟩)

/-- All ADDR_LO does with a byte (R155). -/
theorem rxAddrLo_cases (b : Byte) (s : State) :
    ([s.ah, b] = addrDigits s.addr ∧ rxAddrLo b s =
      { s with
        rxQueue := s.rxQueue.tail, acc := accAdd s.acc b, lastT := s.tPrev, decSt := .payload }) ∨
    ([s.ah, b] ≠ addrDigits s.addr ∧ rxAddrLo b s =
      { s with
        rxQueue := s.rxQueue.tail, acc := accAdd s.acc b, lastT := s.tPrev
        decSt := .idle, decResult := .addressMismatch }) := by
  by_cases h : [s.ah, b] = addrDigits s.addr
  · exact .inl ⟨h, if_pos h⟩
  · exact .inr ⟨h, if_neg h⟩

/-- All PAYLOAD does with a byte that is not the checksum letter (R156). -/
theorem rxPayloadByte_cases (b : Byte) (s : State) :
    (s.plen < s.params.payloadCap ∧ s.plen + 1 ≠ s.params.payloadCap ∧ rxPayloadByte b s =
      .next { s with
        rxQueue := s.rxQueue.tail, acc := accAdd s.acc b, lastT := s.tPrev
        pbuf := s.pbuf.write s.plen b, plen := s.plen + 1 }) ∨
    (s.plen < s.params.payloadCap ∧ s.plen + 1 = s.params.payloadCap ∧ rxPayloadByte b s =
      .next { s with
        rxQueue := s.rxQueue.tail, acc := accAdd s.acc b, lastT := s.tPrev
        pbuf := s.pbuf.write s.plen b, plen := s.plen + 1
        decSt := .idle, decResult := .malformedFrame }) ∨
    (s.params.payloadCap ≤ s.plen ∧ rxPayloadByte b s = .fault .bufferRange) := by
  unfold rxPayloadByte
  rcases writeBuf_cases s.params.payloadCap s.pbuf s.plen b with ⟨h, e⟩ | ⟨h, e⟩
  · by_cases h' : s.plen + 1 = s.params.payloadCap
    · exact .inr (.inl ⟨h, h', by simp [e, h', takeByte, finish]⟩)
    · exact .inl ⟨h, h', by simp [e, h', takeByte]⟩
  · exact .inr (.inr ⟨h, by simp [e]⟩)

/-- All PAYLOAD does with an uppercase byte (R159). -/
theorem rxChecksum_cases (b : Byte) (s : State) :
    (b = ckChar s.acc ∧ rxChecksum b s =
      { s with rxQueue := s.rxQueue.tail, lastT := s.tPrev, decSt := .swallow }) ∨
    (b ≠ ckChar s.acc ∧ rxChecksum b s =
      { s with rxQueue := s.rxQueue.tail, decSt := .idle, decResult := .checksumError }) := by
  by_cases h : b = ckChar s.acc
  · exact .inl ⟨h, if_pos h⟩
  · exact .inr ⟨h, if_neg h⟩

/-- All SWALLOW does with a byte (R158). -/
theorem rxSwallow_cases (b : Byte) (s : State) :
    (isNewline b = true ∧ rxSwallow b s =
      { s with rxQueue := s.rxQueue.tail, lastT := s.tPrev }) ∨
    (isNewline b = false ∧ rxSwallow b s = enterSettle s.tPrev s) := by
  unfold rxSwallow
  cases h : isNewline b
  · exact .inr ⟨rfl, rfl⟩
  · exact .inl ⟨rfl, rfl⟩

/-- What a step does with its next input (R91). -/
theorem step_cons {s : State} {x : Input} {rest : List Input} (h : s.inputs = x :: rest) :
    step s = processInput x { s with inputs := rest } := by
  simp [step, nextInput, h]

/-- All a step can do when it answers a next state (R91). -/
theorem step_cases {s t : State} (h : step s = .next t) :
    (s.inputs = [] ∧ t = s) ∨
    ∃ x rest, s.inputs = x :: rest ∧
      ((x.event = .reset ∧ t = hardReset (arrive x.arrived { s with inputs := rest })) ∨
       (x.event ≠ .reset ∧ s.tPrev ≤ x.time ∧
        handle x.event (advanceTime x.time (arrive x.arrived { s with inputs := rest })) =
          .next t)) := by
  rcases hi : s.inputs with _ | ⟨x, rest⟩
  · simp [step, nextInput, hi] at h
    exact .inl ⟨rfl, h.symm⟩
  · rw [step_cons hi] at h
    unfold processInput at h
    refine .inr ⟨x, rest, rfl, ?_⟩
    split at h
    · next hr => cases h; exact .inl ⟨hr, rfl⟩
    · next hr =>
      split at h
      · cases h
      · next ht => exact .inr ⟨hr, by simpa using ht, h⟩

/-- All `TX_ACK(ok)` can do when it answers a next state (R132 to R134). -/
theorem txAckOk_next {s t : State} (h : txAckOk s = .next t) :
    ∃ b, txByte s = .ok (some b) ∧ t = advanceFrame b { s with txSent := s.txSent ++ [b] } := by
  unfold txAckOk at h
  split at h
  · cases h
  · cases h
  · next b hb => cases h; exact ⟨b, hb, rfl⟩

/-- All `TX_ACK(fail)` can do when it answers a next state (R135). -/
theorem txAckFail_next {s t : State} (h : txAckFail s = .next t) :
    s.encPh ≠ .idle ∧ t = failFrame s := by
  unfold txAckFail at h
  split at h
  · next hb => cases h; exact ⟨encBusy_eq_true.mp hb, rfl⟩
  · cases h

/-- All `RX_OFFER` can do when it answers a next state (R65, R151). -/
theorem rxOffer_next {b : Byte} {s t : State} (h : rxOffer b s = .next t) :
    s.rxQueue.head? = some b ∧ decodeByte b s = .next t := by
  unfold rxOffer at h
  split at h
  · next hq => exact ⟨hq, h⟩
  · cases h

/-- All `RX_NONE` can do when it answers a next state (R164). -/
theorem rxNone_next {s t : State} (h : rxNone s = .next t) :
    s.rxQueue = [] ∧
    ((s.decSt = .swallow ∧ t = enterSettle s.tPrev s) ∨ (s.decSt ≠ .swallow ∧ t = s)) := by
  unfold rxNone at h
  split at h
  · cases h
  · next hq =>
    refine ⟨by simpa using hq, ?_⟩
    split at h
    · next hd => cases h; exact .inl ⟨hd, rfl⟩
    · next hd => cases h; exact .inr ⟨hd, rfl⟩

/-- A run begins with one step. -/
theorem run_succ {k : Nat} {s t : State} (h : step s = .next t) : run (k + 1) s = run k t := by
  show Host.Core.run _ _ _ = Host.Core.run _ _ _
  simp only [Host.Core.run, Sys2Proof.core, h]

end Sys2Proof.Machine
end

