-- ==== Sys2Proof/Laws/PerInstr.lean ====
section
/-! SUPPORT. The family `EncodesItsRow` of LAWS.json: the word `encode` writes for a command has the
fixed bits of the opcode-table row with that command's mnemonic (spec/30_encoding.md R72). -/

namespace Sys2Proof.Laws

/-- The word of the command has the fixed bits of its row. -/
def EncodesItsRow.Statement (i : Instr) : Prop :=
  ∃ r ∈ opcodeTable, r.mnemonic = i.mnemonic ∧ r.covers (encode i) = true

theorem EncodesItsRow.nop : EncodesItsRow.Statement .nop :=
  ⟨⟨"NOP", 0xFFFF, 0x0000⟩, by decide, rfl, by decide⟩

theorem EncodesItsRow.accReset : EncodesItsRow.Statement .accReset :=
  ⟨⟨"ACC_RESET", 0xFFFF, 0x1000⟩, by decide, rfl, by decide⟩

theorem EncodesItsRow.accAdd (d : Byte) : EncodesItsRow.Statement (.accAdd d) :=
  ⟨⟨"ACC_ADD", 0xFF00, 0x2000⟩, by decide, rfl, by revert d; decide⟩

theorem EncodesItsRow.accRead : EncodesItsRow.Statement .accRead :=
  ⟨⟨"ACC_READ", 0xFFFF, 0x3000⟩, by decide, rfl, by decide⟩

theorem EncodesItsRow.addrWr (n : Byte) : EncodesItsRow.Statement (.addrWr n) :=
  ⟨⟨"ADDR_WR", 0xFF00, 0x4000⟩, by decide, rfl, by revert n; decide⟩

theorem EncodesItsRow.addrRd : EncodesItsRow.Statement .addrRd :=
  ⟨⟨"ADDR_RD", 0xFFFF, 0x5000⟩, by decide, rfl, by decide⟩

theorem EncodesItsRow.valClr : EncodesItsRow.Statement .valClr :=
  ⟨⟨"VAL_CLR", 0xFFFF, 0x6000⟩, by decide, rfl, by decide⟩

theorem EncodesItsRow.valPush (c : Byte) : EncodesItsRow.Statement (.valPush c) :=
  ⟨⟨"VAL_PUSH", 0xFF00, 0x7000⟩, by decide, rfl, by revert c; decide⟩

theorem EncodesItsRow.encSend (w : Bool) (c : Byte) : EncodesItsRow.Statement (.encSend w c) :=
  ⟨⟨"ENC_SEND", 0xFE00, 0x8000⟩, by decide, rfl, by revert w c; decide⟩

theorem EncodesItsRow.decStart : EncodesItsRow.Statement .decStart :=
  ⟨⟨"DEC_START", 0xFFFF, 0x9000⟩, by decide, rfl, by decide⟩

theorem EncodesItsRow.statRd : EncodesItsRow.Statement .statRd :=
  ⟨⟨"STAT_RD", 0xFFFF, 0xA000⟩, by decide, rfl, by decide⟩

theorem EncodesItsRow.plenRd : EncodesItsRow.Statement .plenRd :=
  ⟨⟨"PLEN_RD", 0xFFFF, 0xB000⟩, by decide, rfl, by decide⟩

theorem EncodesItsRow.pbufRd (k : Byte) : EncodesItsRow.Statement (.pbufRd k) :=
  ⟨⟨"PBUF_RD", 0xFF00, 0xC000⟩, by decide, rfl, by revert k; decide⟩

theorem EncodesItsRow.errcRd : EncodesItsRow.Statement .errcRd :=
  ⟨⟨"ERRC_RD", 0xFFFF, 0xD000⟩, by decide, rfl, by decide⟩

end Sys2Proof.Laws
end

