-- ==== Sys2Proof/Tests/Slice0.lean ====
section
/-! SUPPORT. Tests of single steps against spec/95_test_vectors.md and the words spec/30_encoding.md
writes out, and for every statement of Obligations.lean a state that meets its hypotheses. -/

open Sys2Proof Sys2Proof.Machine

namespace Sys2Proof.Tests

/-! ## Helpers -/

/-- The next state, if the outcome is one. -/
def after (o : Host.Outcome State Fault Refusal) : Option State :=
  match o with
  | .next s => some s
  | .fault _ => none
  | .refused _ => none

/-- The reason of a refusal, if the outcome is one. -/
def refusal (o : Host.Outcome State Fault Refusal) : Option Refusal :=
  match o with
  | .next _ => none
  | .fault _ => none
  | .refused r => some r

/-- The state after reset. -/
def idle : State := State.reset

/-- `:01su15` is being sent, and nothing of it was acknowledged yet. -/
def sending : State :=
  { idle with
    encPh := .body, encW := true, encCmd := 0x75, vbuf := [(0, 0x31), (1, 0x35)], vlen := 2 }

/-- The last body byte `5` of `:01su15` is on the port: `:01su1` sums to 436, 20 modulo 26 (K9). -/
def lastBodyByte : State := { sending with encI := 6, acc := 20 }

/-- The checksum letter of `:01su15` is on the port: 489 is 21 modulo 26. -/
def sendingCk : State := { sending with encPh := .ck, acc := 21 }

/-- The LF of CR LF is on the port. -/
def lastTermByte : State := { sending with encPh := .term, encI := 1, acc := 21 }

/-- An attempt started at 1000. -/
def seeking : State := { idle with decSt := .seek, lastT := 1000, tPrev := 1000 }

/-- `:` was taken. -/
def atAddrHi : State := { seeking with decSt := .addrHi, acc := 6 }

/-- `:0` was taken. -/
def atAddrLo : State := { seeking with decSt := .addrLo, acc := 2, ah := 0x30 }

/-- `:01ok` was taken (K15). -/
def atPayload : State :=
  { seeking with decSt := .payload, acc := 9, pbuf := [(0, 0x6F), (1, 0x6B)], plen := 2 }

/-- `:01okJ` was taken. -/
def swallowing : State := { atPayload with decSt := .swallow }

/-- The settle delay of 20 ms runs since 1000. -/
def settling : State :=
  { atPayload with decSt := .settle, setT0 := 1000, params := { idle.params with settleDelay := 20 } }

/-- The state with one input presented. -/
def withInput (s : State) (t : Nat) (e : Event) : State := { s with inputs := [⟨t, [], e⟩] }

/-- The state with a byte waiting, and offered. -/
def withOffer (s : State) (t : Nat) (b : Byte) : State := { s with inputs := [⟨t, [b], .rxOffer b⟩] }

/-! ## Ill-formed operands are refused by the check (R76) -/

theorem test_wf_addr_zero : (Instr.addrWr 0).wellFormed = false := by decide
theorem test_wf_addr_hundred : (Instr.addrWr 100).wellFormed = false := by decide
theorem test_wf_push_letter : (Instr.valPush 0x78).wellFormed = false := by decide
theorem test_wf_send_capital : (Instr.encSend true 0x41).wellFormed = false := by decide
theorem test_wf_edges : ([.addrWr 1, .addrWr 99, .valPush 0x30, .valPush 0x39, .encSend false 0x61,
    .encSend true 0x7A, .accAdd 0xFF, .pbufRd 0xFF] : List Instr).all Instr.wellFormed = true := by
  decide

/-! ## Words written from R72, R74 and R78 -/

theorem test_decode_nop : decode 0b0000000000000000 = .ok .nop := by decide
theorem test_decode_acc_reset : decode 0b0001000000000000 = .ok .accReset := by decide
theorem test_decode_acc_add : decode 0b0010000000111010 = .ok (.accAdd 0x3A) := by decide
theorem test_decode_acc_read : decode 0b0011000000000000 = .ok .accRead := by decide
theorem test_decode_addr_wr : decode 0b0100000000001100 = .ok (.addrWr 12) := by decide
theorem test_decode_addr_rd : decode 0b0101000000000000 = .ok .addrRd := by decide
theorem test_decode_val_clr : decode 0b0110000000000000 = .ok .valClr := by decide
theorem test_decode_val_push : decode 0b0111000000110001 = .ok (.valPush 0x31) := by decide
theorem test_decode_send_read : decode 0b1000000001110101 = .ok (.encSend false 0x75) := by decide
theorem test_decode_send_write : decode 0b1000000101110101 = .ok (.encSend true 0x75) := by decide
theorem test_decode_dec_start : decode 0b1001000000000000 = .ok .decStart := by decide
theorem test_decode_stat_rd : decode 0b1010000000000000 = .ok .statRd := by decide
theorem test_decode_plen_rd : decode 0b1011000000000000 = .ok .plenRd := by decide
theorem test_decode_pbuf_rd : decode 0b1100000000000011 = .ok (.pbufRd 3) := by decide
theorem test_decode_errc_rd : decode 0b1101000000000000 = .ok .errcRd := by decide
theorem test_decode_reserved_opcode : decode 0xE000 = .error .reservedOpcode := by decide
theorem test_decode_reserved_flag : decode 0x8200 = .error .reservedField := by decide
theorem test_decode_reserved_data : decode 0x10FF = .error .reservedField := by decide
theorem test_decode_table_word : decodeTableWord 16 0x8175 = some (.encSend true 0x75) := by decide

/-! ## Assembler lines (R78, R79) -/

theorem test_asm_addr_wr : assemble "ADDR_WR 12".toList = some [0x400C] := by decide
theorem test_asm_enc_send :
    assemble ['E','N','C','_','S','E','N','D',' ','w',',',' ',singleQuote,'u',singleQuote] =
      some [0x8175] := by decide
theorem test_asm_hex_comment : assemble "ACC_ADD 0x3A ; the marker".toList = some [0x203A] := by
  decide
theorem test_expand_set_req : (Pseudo.expand (.setReq 0x75 1500)).map encode =
    [0x6000, 0x7031, 0x7035, 0x7030, 0x7030, 0x8175] := by decide

/-! ## Commands, one step each (the ids are those of spec/95_test_vectors.md) -/

theorem test_X18_nop_clears_the_error :
    (after (exec .nop { idle with cmdErr := true, cmdCause := .indexRange, resp := 5 })).map
      (fun t => (t.cmdErr, t.cmdCause, t.resp)) = some (false, .none, 0) := by decide
theorem test_K36_acc_reset :
    (after (exec .accReset { idle with acc := 23 })).map (fun t => (t.acc, t.resp)) =
      some (0, 0) := by decide
theorem test_K39_acc_reset_busy :
    (after (exec .accReset { seeking with acc := 23 })).map (fun t => (t.acc, t.cmdCause)) =
      some (23, .busy) := by decide
theorem test_K30_acc_add :
    (after (exec (.accAdd 0xFF) { idle with acc := 25 })).map (·.acc) = some 20 := by decide
theorem test_K32_acc_add_does_not_wrap :
    (after (exec (.accAdd 0xFF) { idle with acc := 1 })).map (·.acc) = some 22 := by decide
theorem test_K40_acc_read_while_sending :
    (after (exec .accRead { sending with acc := 6 })).map (fun t => (t.resp, t.cmdErr)) =
      some (0x47, false) := by decide
theorem test_E33_addr_wr : (after (exec (.addrWr 99) idle)).map (·.addr) = some 99 := by decide
theorem test_E32_addr_wr_hundred :
    (after (exec (.addrWr 100) idle)).map (fun t => (t.addr, t.cmdCause)) =
      some (1, .badOperand) := by decide
theorem test_E30_addr_rd : (after (exec .addrRd { idle with addr := 12 })).map (·.resp) =
    some 0x0C := by decide
theorem test_R123_val_clr_keeps_the_bytes :
    (after (exec .valClr { sending with encPh := .idle })).map (fun t => (t.vlen, t.vbuf)) =
      some (0, [(0, 0x31), (1, 0x35)]) := by decide
theorem test_E45_val_clr_busy :
    (after (exec .valClr sending)).map (fun t => (t.vlen, t.cmdCause)) = some (2, .busy) := by decide
theorem test_E40_val_push :
    (after (exec (.valPush 0x31) idle)).map (fun t => (t.vbuf, t.vlen)) =
      some ([(0, 0x31)], 1) := by decide
theorem test_E41_val_push_full :
    (after (exec (.valPush 0x31) { idle with vlen := 10 })).map (fun t => (t.vlen, t.cmdCause)) =
      some (10, .bufFull) := by decide
theorem test_R130_enc_send :
    (after (exec (.encSend true 0x75) { idle with acc := 9, encResult := .sent })).map
      (fun t => (t.encPh, t.acc, t.encW, t.encCmd, t.encResult)) =
      some (.body, 0, true, 0x75, .none) := by decide
theorem test_E46_enc_send_capital :
    (after (exec (.encSend true 0x41) idle)).map (fun t => (t.encPh, t.cmdCause)) =
      some (.idle, .badOperand) := by decide
theorem test_V7_dec_start :
    (after (exec .decStart { idle with tPrev := 1000, plen := 6, junk := 2 })).map
      (fun t => (t.decSt, t.lastT, t.plen, t.junk)) = some (.seek, 1000, 0, 0) := by decide
theorem test_D86_dec_start_busy :
    (after (exec .decStart sending)).map (fun t => (t.decSt, t.cmdCause)) =
      some (.idle, .busy) := by decide
theorem test_X48_stat_rd :
    (after (exec .statRd { idle with
      encResult := .sent, decResult := .malformedFrame, cmdErr := true, cmdCause := .illegal })).map
      (fun t => (t.resp, t.cmdErr)) = some (0xE4, true) := by decide
theorem test_X42_stat_rd :
    (after (exec .statRd { seeking with encResult := .sent })).map (·.resp) = some 0x06 := by decide
theorem test_D80_plen_rd : (after (exec .plenRd atPayload)).map (·.resp) = some 2 := by decide
theorem test_D81_pbuf_rd : (after (exec (.pbufRd 1) atPayload)).map (·.resp) = some 0x6B := by
  decide
theorem test_D82_pbuf_rd_past_the_end :
    (after (exec (.pbufRd 2) atPayload)).map (fun t => (t.resp, t.cmdCause)) =
      some (0, .indexRange) := by decide
theorem test_X16_errc_rd :
    (after (exec .errcRd { idle with cmdErr := true, cmdCause := .indexRange })).map
      (fun t => (t.resp, t.cmdErr)) = some (5, true) := by decide

/-! ## The order of refusals, and the other events -/

theorem test_X31_bad_operand_before_full :
    (after (execWord 0x7078 { idle with vlen := 10 })).map (·.cmdCause) = some .badOperand := by decide
theorem test_X32_busy_before_bad_operand :
    (after (execWord 0x8141 seeking)).map (·.cmdCause) = some .busy := by decide
theorem test_X33_illegal_before_busy :
    (after (execWord 0x8341 seeking)).map (·.cmdCause) = some .illegal := by decide
theorem test_E21_fail_in_ck_keeps_acc :
    (after (step (withInput sendingCk 5 (.txAck false)))).map
      (fun t => (t.acc, t.encPh, t.encResult, t.vlen)) = some (21, .idle, .txError, 0) := by decide
theorem test_E24_ack_while_idle :
    refusal (step (withInput idle 5 (.txAck true))) = some .ackWithoutByte := by decide
theorem test_R134_last_terminator_byte :
    (after (step (withInput lastTermByte 5 (.txAck true)))).map
      (fun t => (t.txSent, t.encPh, t.encResult, t.vlen)) =
      some ([0x0A], .idle, .sent, 0) := by decide
theorem test_D60_no_timeout_before_the_deadline :
    (after (step (withInput seeking 1499 .tick))).map (·.decSt) = some .seek := by decide
theorem test_D61_timeout_at_the_deadline :
    (after (step (withInput seeking 1500 .tick))).map (fun t => (t.decSt, t.decResult)) =
      some (.idle, .timeout) := by decide
theorem test_D62_byte_at_the_deadline_is_left :
    (after (step (withOffer { atAddrHi with lastT := 1200, tPrev := 1200 } 1700 0x30))).map
      (fun t => (t.decResult, t.rxQueue, t.acc)) = some (.timeout, [0x30], 6) := by decide
theorem test_D65_none_in_seek :
    (after (step (withInput seeking 1300 .rxNone))).map (fun t => (t.decSt, t.junk, t.lastT)) =
      some (.seek, 0, 1000) := by decide
theorem test_D31_no_alias :
    (after (step (withOffer { atAddrLo with addr := 11 } 1001 0x3B))).map
      (fun t => (t.decResult, t.acc)) = some (.addressMismatch, 9) := by decide
theorem test_D70_time_runs_backwards :
    refusal (step (withInput seeking 999 .tick)) = some .timeRunsBackwards := by decide
theorem test_Z5_reset_at_any_time :
    (after (step (withInput { atPayload with rxQueue := [0x4A] } 5 .reset))).map
      (fun t => (t.tPrev, t.decSt, t.plen, t.rxQueue)) = some (0, .idle, 0, [0x4A]) := by decide
theorem test_fetch_word :
    (after (step (State.reset.withFetchWord 16 0x4063))).map (·.addr) = some 99 := by decide

/-! ## States that meet the invariant -/

theorem inv_idle : StateInv idle := by constructor <;> decide
theorem inv_sending : StateInv sending := by constructor <;> decide
theorem inv_last_body_byte : StateInv lastBodyByte := by constructor <;> decide
theorem inv_sending_ck : StateInv sendingCk := by constructor <;> decide
theorem inv_last_term_byte : StateInv lastTermByte := by constructor <;> decide
theorem inv_seeking : StateInv seeking := by constructor <;> decide
theorem inv_payload : StateInv atPayload := by constructor <;> decide
theorem inv_swallowing : StateInv swallowing := by constructor <;> decide
theorem inv_settling : StateInv settling := by constructor <;> decide
theorem inv_with_input (s : State) (x : List Input) (h : StateInv s) :
    StateInv { s with inputs := x } := by
  obtain ⟨⟩ := h
  constructor <;> assumption

/-! ## Witnesses: the hypotheses of each statement, met together

`witness_<Statement>`, one conjunct per clause, at the edges of its range. -/

theorem witness_EncodeDecodeRoundTrip : decode 0x817A = .ok (.encSend true 0x7A) := by decide

theorem witness_StepProcessesTheNextEvent :
    idle.inputs = [] ∧
    (withInput seeking 5 .reset).inputs = [⟨5, [], .reset⟩] ∧
    ((withInput seeking 999 .tick).inputs = [⟨999, [], .tick⟩] ∧ 999 < seeking.tPrev) ∧
    ((withInput seeking 1000 .rxNone).inputs = [⟨1000, [], .rxNone⟩] ∧ seeking.tPrev ≤ 1000) ∧
    ((withInput seeking 1500 .tick).inputs = [⟨1500, [], .tick⟩] ∧ seeking.tPrev ≤ 1500) := by decide

theorem witness_ReservedWordsAreRefused :
    decode 0xE000 = .error .reservedOpcode ∧ decode 0xFFFF = .error .reservedOpcode ∧
    decode 0x8200 = .error .reservedField ∧ decode 0x0100 = .error .reservedField ∧
    decode 0x0001 = .error .reservedField := by decide

theorem witness_StepRunsTheDecodedCommand :
    (withInput seeking 1000 (.cmd 0x7031)).inputs = [⟨1000, [], .cmd 0x7031⟩] ∧
    seeking.tPrev ≤ 1000 ∧ decode 0x7031 = .ok (.valPush 0x31) := by decide

theorem witness_TimerPhaseRules :
    idle.decSt = .idle ∧
    (reading seeking = true ∧ seeking.params.charTimeout ≤ 1500 - seeking.lastT) ∧
    (reading seeking = true ∧ 1499 - seeking.lastT < seeking.params.charTimeout) ∧
    (swallowing.decSt = .swallow ∧ 1499 - swallowing.lastT < swallowing.params.charTimeout) ∧
    (swallowing.decSt = .swallow ∧ swallowing.params.charTimeout ≤ 1500 - swallowing.lastT ∧
      swallowing.params.settleDelay = 0) ∧
    ({ settling with decSt := .swallow }.decSt = .swallow ∧
      settling.params.charTimeout ≤ 1500 - settling.lastT ∧ 0 < settling.params.settleDelay) ∧
    (settling.decSt = .settle ∧ settling.params.settleDelay ≤ 1020 - settling.setT0) ∧
    (settling.decSt = .settle ∧ 1019 - settling.setT0 < settling.params.settleDelay) := by decide

theorem witness_AccResetCommand :
    opField 0x1001 = opField 0x1000 ∧ (0x1001 : Word) ≠ 0x1000 ∧
    idle.encPh = .idle ∧ idle.decSt = .idle ∧ sending.encPh ≠ .idle := by decide

theorem witness_AccAddCommand :
    (0x2100 : Word).toNat / 4096 = 2 ∧ (0x2100 : Word).toNat / 256 % 16 ≠ 0 ∧
    idle.encPh = .idle ∧ idle.decSt = .idle ∧ seeking.decSt ≠ .idle := by decide

theorem witness_AccReadCommand :
    opField 0x30FF = opField 0x3000 ∧ (0x30FF : Word) ≠ 0x3000 ∧
    ({ idle with acc := 25 } : State).acc.toNat ≤ 25 := by decide

theorem witness_RepeatedSubtractionIsAccAdd : (25 : BitVec 5).toNat ≤ 25 ∧ 10 ≤ 10 := by decide

theorem witness_AccStrComputesTheByteSum : idle.encPh = .idle ∧ idle.decSt = .idle := by decide

theorem witness_ChecksumAlgebra :
    ([0x3A, 0x30] : List Byte).Perm [0x30, 0x3A] ∧
    ((25 : BitVec 5).toNat ≤ 25 ∧ ((0xFF : Byte).toNat + (5 : Byte).toNat) % 26 = 0) ∧
    (([0x41] : List Byte).map BitVec.toNat).sum % 26 =
      (([0x27, 0x1A] : List Byte).map BitVec.toNat).sum % 26 := by decide

theorem witness_AddrWrCommand :
    ((0x4101 : Word).toNat / 4096 = 4 ∧ (0x4101 : Word).toNat / 256 % 16 ≠ 0) ∧
    (idle.encPh = .idle ∧ idle.decSt = .idle) ∧ 1 ≤ (1 : Byte).toNat ∧ (99 : Byte).toNat ≤ 99 ∧
    (0 : Byte).toNat = 0 ∧ 100 ≤ (100 : Byte).toNat ∧ sending.encPh ≠ .idle := by decide

theorem witness_AddrRdCommand : opField 0x5001 = opField 0x5000 ∧ (0x5001 : Word) ≠ 0x5000 := by
  decide

theorem witness_ValClrCommand :
    (opField 0x6001 = opField 0x6000 ∧ (0x6001 : Word) ≠ 0x6000) ∧
    seeking.encPh = .idle ∧ sending.encPh ≠ .idle := by decide

theorem witness_ValPushCommand :
    ((0x7F31 : Word).toNat / 4096 = 7 ∧ (0x7F31 : Word).toNat / 256 % 16 ≠ 0) ∧
    (idle.encPh = .idle ∧ 0x30 ≤ (0x30 : Byte).toNat ∧ (0x39 : Byte).toNat ≤ 0x39 ∧
      { idle with vlen := 9 }.vlen < idle.params.valueMax ∧
      { idle with vlen := 10 }.vlen = idle.params.valueMax) ∧
    ((0x2F : Byte).toNat < 0x30 ∧ 0x39 < (0x3A : Byte).toNat) ∧ sending.encPh ≠ .idle := by decide

theorem witness_RenderDecIsDecimal : (1500 : Nat) ≠ 0 ∧ (renderDec 1500).head? = some 0x31 := by decide

theorem witness_ValNumLoadsTheDigits :
    idle.encPh = .idle ∧ (renderDec 1500).length ≤ idle.params.valueMax := by decide

theorem witness_EncSendCommand :
    ((0x8275 : Word).toNat / 4096 = 8 ∧ 2 ≤ (0x8275 : Word).toNat / 256 % 16) ∧
    (idle.encPh = .idle ∧ idle.decSt = .idle) ∧
    (0x61 ≤ (0x61 : Byte).toNat ∧ (0x7A : Byte).toNat ≤ 0x7A) ∧
    ((0x60 : Byte).toNat < 0x61 ∧ 0x7A < (0x7B : Byte).toNat) ∧ seeking.decSt ≠ .idle := by decide

theorem witness_BodyBytes :
    StateInv sending ∧ (requestBody sending)[6]? = some 0x35 ∧ 1 < sending.vlen :=
  ⟨inv_sending, by decide, by decide⟩

theorem witness_TransmitPortOutput :
    (StateInv idle ∧ idle.encPh = .idle) ∧ (StateInv sending ∧ sending.encPh = .body) ∧
    (StateInv sendingCk ∧ sendingCk.encPh = .ck) ∧ StateInv lastTermByte ∧ lastTermByte.encPh = .term :=
  ⟨⟨inv_idle, rfl⟩, ⟨inv_sending, rfl⟩, ⟨inv_sending_ck, rfl⟩, inv_last_term_byte, rfl⟩

theorem witness_TxAckOkInBody :
    (sending.encPh = .body ∧ bodyByte sending sending.encI = .ok 0x3A ∧
      sending.encI + 1 ≠ 5 + sending.vlen) ∧
    lastBodyByte.encPh = .body ∧ bodyByte lastBodyByte lastBodyByte.encI = .ok 0x35 ∧
      lastBodyByte.encI + 1 = 5 + lastBodyByte.vlen := ⟨⟨rfl, rfl, by decide⟩, rfl, rfl, rfl⟩

theorem witness_TxAckOkAfterBody :
    sendingCk.encPh = .ck ∧
    (lastTermByte.encPh = .term ∧
      (termBytes lastTermByte.params.txTerm)[lastTermByte.encI]? = some 0x0A ∧
      lastTermByte.encI + 1 = (termBytes lastTermByte.params.txTerm).length) ∧
    (termBytes lastTermByte.params.txTerm)[0]? = some 0x0D ∧
      0 + 1 ≠ (termBytes lastTermByte.params.txTerm).length := by decide

theorem witness_TxAckFailAbandonsTheFrame :
    sending.encPh = .body ∧ sendingCk.encPh = .ck ∧ lastTermByte.encPh = .term ∧ idle.encPh = .idle := by
  decide

theorem witness_EncoderSendsExactlyTheFrame :
    let s := { sending with inputs := acks [1, 2, 3, 4, 5, 6, 7, 8, 9, 10] }
    StateInv s ∧ s.encPh = .body ∧ s.encI = 0 ∧ s.acc = 0 ∧
    s.inputs = acks [1, 2, 3, 4, 5, 6, 7, 8, 9, 10] ∧
    risesFrom s.tPrev [1, 2, 3, 4, 5, 6, 7, 8, 9, 10] ∧
    [1, 2, 3, 4, 5, 6, 7, 8, 9, 10].length = 6 + s.vlen + (termBytes s.params.txTerm).length :=
  ⟨inv_with_input _ _ inv_sending, rfl, rfl, rfl, rfl, by simp [risesFrom, sending, idle, State.reset,
    State.resetWith], rfl⟩

theorem witness_DecStartCommand :
    (opField 0x9001 = opField 0x9000 ∧ (0x9001 : Word) ≠ 0x9000) ∧
    (idle.encPh = .idle ∧ idle.decSt = .idle) ∧ sending.encPh ≠ .idle := by decide

theorem witness_SeekTakesEveryByte :
    let s := { seeking with rxQueue := [0x3A], junk := 31 }
    (s.decSt = .seek ∧ s.rxQueue = [0x3A]) ∧ (0x41 : Byte) ≠ 0x3A ∧
    { s with junk := 30 }.junk + 1 ≠ s.params.junkBudget ∧ s.junk + 1 = s.params.junkBudget := by decide

theorem witness_AddressBytesAreCompared :
    let s := { atAddrLo with rxQueue := [0x31] }
    ({ atAddrHi with rxQueue := [0x30] }.decSt = .addrHi) ∧
    (s.decSt = .addrLo ∧ s.rxQueue = [0x31] ∧ 1 ≤ s.addr.toNat ∧ s.addr.toNat ≤ 99 ∧
      s.ah.toNat = 0x30 + s.addr.toNat / 10 ∧ (0x31 : Byte).toNat = 0x30 + s.addr.toNat % 10) ∧
    ¬(s.ah.toNat = 0x30 + s.addr.toNat / 10 ∧ (0x32 : Byte).toNat = 0x30 + s.addr.toNat % 10) := by
  decide

theorem witness_PayloadBytesAreStored :
    let s := { atPayload with rxQueue := [0x40] }
    (s.decSt = .payload ∧ s.rxQueue = [0x40]) ∧
    ((0x40 : Byte).toNat < 0x41 ∧ 0x5A < (0x5B : Byte).toNat) ∧
    (s.plen < s.params.payloadCap ∧ s.plen + 1 ≠ s.params.payloadCap) ∧
    { s with plen := 11 }.plen + 1 = s.params.payloadCap := by decide

theorem witness_ChecksumLetterIsCompared :
    let s := { atPayload with rxQueue := [0x4A] }
    (s.decSt = .payload ∧ s.rxQueue = [0x4A] ∧ 0x41 ≤ (0x4A : Byte).toNat ∧
      (0x4A : Byte).toNat ≤ 0x5A ∧ (0x4A : Byte).toNat = 0x41 + s.acc.toNat) ∧
    (0x41 : Byte).toNat ≠ 0x41 + s.acc.toNat ∧ (0x5A : Byte).toNat ≠ 0x41 + s.acc.toNat := by decide

theorem witness_SwallowEndsOnOtherByteOrNone :
    ({ swallowing with rxQueue := [0x0D] }.decSt = .swallow ∧
      { swallowing with rxQueue := [0x0D] }.rxQueue.head? = some 0x0D) ∧
    { swallowing with rxQueue := [0x3A] }.rxQueue.head? = some 0x3A ∧
    (swallowing.rxQueue = [] ∧ swallowing.params.settleDelay = 0) ∧
    ({ settling with decSt := .swallow }.decSt = .swallow ∧ settling.params.settleDelay ≠ 0) ∧
    seeking.decSt ≠ .swallow := by decide

theorem witness_ReceivePortReadiness :
    ({ idle with rxQueue := [0x3A] }.decSt = .idle ∧ settling.decSt = .settle) ∧
    (after (handle (.rxOffer 0x3A) { seeking with rxQueue := [0x3A] })).isSome = true ∧
    (after (handle (.rxOffer 0x0A) { swallowing with rxQueue := [0x0A] })).isSome = true ∧
    (after (handle (.rxOffer 0x3A) { swallowing with rxQueue := [0x3A] })).isSome = true := by decide

theorem witness_PlenRdCommand :
    opField 0xB001 = opField 0xB000 ∧ (0xB001 : Word) ≠ 0xB000 ∧ atPayload.plen ≤ 255 := by decide

theorem witness_PbufRdCommand :
    ((0xC100 : Word).toNat / 4096 = 0xC ∧ (0xC100 : Word).toNat / 256 % 16 ≠ 0) ∧
    (StateInv atPayload ∧ (1 : Byte).toNat < atPayload.plen) ∧ atPayload.plen ≤ (2 : Byte).toNat :=
  ⟨by decide, ⟨inv_payload, by decide⟩, by decide⟩

/-- One junk byte, `:01o`, its letter, then LF and CR, each byte at its last admitted moment or with the
one before. -/
theorem witness_DecoderRecoversTheFrame :
    let ts := [1000, 1499, 1499, 1500, 1501, 1502, 1502, 2001]
    let body := responseBody seeking.addr [0x6F]
    let bytes := [0x78] ++ body ++ [ckChar (accOf body)] ++ [0x0A, 0x0D]
    let s := { seeking with
      inputs := offers (ts.zip bytes) ++ [⟨2500, [], .rxNone⟩, ⟨2500, [], .tick⟩] }
    StateInv s ∧ s.decSt = .seek ∧ s.junk = 0 ∧ s.rxQueue = [] ∧
    (∀ b ∈ ([0x78] : List Byte), b ≠ 0x3A) ∧ 1 + 1 ≤ s.params.junkBudget ∧
    (∀ b ∈ ([0x6F] : List Byte), isUpper b = false) ∧ 1 + 1 ≤ s.params.payloadCap ∧
    (∀ b ∈ ([0x0A, 0x0D] : List Byte), b = 0x0D ∨ b = 0x0A) ∧
    ts.length = bytes.length ∧ closeFrom s.params.charTimeout s.lastT (ts ++ [2500]) ∧
    s.tPrev ≤ (ts ++ [2500]).head! ∧ 2500 + s.params.settleDelay ≤ 2500 :=
  ⟨inv_with_input _ _ inv_seeking, rfl, rfl, rfl, by decide, by decide, by decide, by decide,
    by decide, rfl,
    by simp [closeFrom, seeking, idle, State.reset, State.resetWith, Config.vectorParams],
    by decide, by decide⟩

theorem witness_JunkBudgetEndsTheAttempt :
    let s := { seeking with
      params := { seeking.params with junkBudget := 2 }
      rxQueue := [0x78, 0x79] ++ [0x3A]
      inputs := [⟨1000, [], .rxOffer 0x78⟩, ⟨1499, [], .rxOffer 0x79⟩] }
    StateInv s ∧ s.decSt = .seek ∧ s.junk = 0 ∧ (∀ b ∈ ([0x78, 0x79] : List Byte), b ≠ 0x3A) ∧
    ([0x78, 0x79] : List Byte).length = s.params.junkBudget ∧
    closeFrom s.params.charTimeout s.lastT [1000, 1499] ∧ s.tPrev ≤ [1000, 1499].head! ∧
    s.inputs = ([1000, 1499].zip ([0x78, 0x79] : List Byte)).map
      (fun p => ⟨p.1, [], .rxOffer p.2⟩) :=
  ⟨by constructor <;> decide, rfl, rfl, by decide, rfl,
    by simp [closeFrom, seeking, idle, State.reset, State.resetWith, Config.vectorParams],
    by decide, rfl⟩

/-- The late event is a byte offered at its deadline (D62); a TICK, a DEC_START or RX_NONE would do. -/
theorem witness_TimeoutExactlyAtTheDeadline :
    let early : List Input := [⟨1000, [], .cmd 0x9000⟩, ⟨1400, [], .rxNone⟩, ⟨1499, [], .tick⟩]
    let late : Input := ⟨1500, [0x3A], .rxOffer 0x3A⟩
    let s := { seeking with inputs := early ++ [late] }
    StateInv s ∧ reading s = true ∧
    (∀ x ∈ early, x.time < s.lastT + s.params.charTimeout ∧
      (x.event = .tick ∨ (∃ w, x.event = .cmd w) ∨
       (x.event = .rxNone ∧ s.rxQueue = [] ∧ ∀ y ∈ early, y.arrived = []))) ∧
    risesFrom s.tPrev (early.map Input.time) ∧ s.lastT + s.params.charTimeout ≤ late.time ∧
    (s.rxQueue ++ early.flatMap Input.arrived ++ late.arrived).head? = some 0x3A :=
  ⟨inv_with_input _ _ inv_seeking, rfl,
    by simp [seeking, idle, State.reset, State.resetWith, Config.vectorParams],
    by simp [risesFrom, seeking, idle, State.reset, State.resetWith, Config.vectorParams], by decide,
    rfl⟩

/-- A DEC_START at the deadline begins the next attempt; a byte before it, or a TICK, does not; and an
event at the bound t₀ + 46 × 500 finds the attempt over. -/
theorem witness_ReadingStatesAreBounded :
    (startsAttempt (withInput seeking 1500 (.cmd 0x9000)) ∧
      ∃ t, step (withInput seeking 1500 (.cmd 0x9000)) = .next t) ∧
    (let s := withOffer seeking 1499 0x78
     StateInv s ∧ AttemptBound 1000 s ∧ ¬startsAttempt s ∧ reading s = true ∧
      s.inputs = [⟨1499, [0x78], .rxOffer 0x78⟩] ∧ ∃ t, step s = .next t ∧ reading t = true) ∧
    (let s := withInput seeking 24000 .tick
     StateInv s ∧ AttemptBound 1000 s ∧ ¬startsAttempt s ∧ s.inputs = [⟨24000, [], .tick⟩] ∧
      (∃ t, step s = .next t) ∧
      1000 + (s.params.junkBudget + 2 + s.params.payloadCap) * s.params.charTimeout ≤ 24000) := by
  refine ⟨⟨⟨_, _, _, rfl, rfl, by decide, by decide⟩, _, rfl⟩,
    ⟨inv_with_input _ _ inv_seeking, fun _ => by decide, ?_, rfl, rfl, _, rfl, rfl⟩,
    inv_with_input _ _ inv_seeking, fun _ => by decide, ?_, rfl, ⟨_, rfl⟩, by decide⟩
  · rintro ⟨x, rest, w, hx, hw, -⟩
    cases hx
    cases hw
  · rintro ⟨x, rest, w, hx, hw, -⟩
    cases hx
    cases hw

/-- A DEC_START before the deadline is refused and begins nothing (R150, R175). -/
theorem test_dec_start_before_the_deadline :
    (after (step (withInput seeking 1499 (.cmd 0x9000)))).map
      (fun t => (t.decSt, t.lastT, t.cmdCause)) = some (.seek, 1000, .busy) := by decide

theorem witness_FrameOkOnlyAfterTheSettleDelay :
    (StateInv (withInput settling 1020 .tick) ∧
      ((after (step (withInput settling 1020 .tick))).map (·.decResult) = some .frameOk) ∧
      settling.decResult ≠ .frameOk) ∧
    StateInv (withInput swallowing 1001 .rxNone) ∧
      ((after (step (withInput swallowing 1001 .rxNone))).map (·.decResult) = some .frameOk) ∧
      swallowing.decResult ≠ .frameOk :=
  ⟨⟨inv_with_input _ _ inv_settling, by decide, by decide⟩,
    inv_with_input _ _ inv_swallowing, by decide, by decide⟩

theorem witness_NopCommand : opField 0x0001 = opField 0x0000 ∧ (0x0001 : Word) ≠ 0x0000 := by decide

theorem witness_StatRdCommand : opField 0xA001 = opField 0xA000 ∧ (0xA001 : Word) ≠ 0xA000 := by
  decide

theorem witness_ErrcRdCommand : opField 0xD100 = opField 0xD000 ∧ (0xD100 : Word) ≠ 0xD000 := by
  decide

theorem witness_BusyInterlockTable :
    (blockedByBusy (.valPush 0x31) sending = true ∧ blockedByBusy (.encSend true 0x75) seeking = true) ∧
    blockedByBusy (.valPush 0x31) seeking = false ∧ readsStatus (.valPush 0x31) = false ∧
    (after (exec (.valPush 0x31) seeking)).isSome = true := by decide

theorem witness_FirstApplicableCauseIsReported :
    (∀ i, decode 0x7078 = .ok i → readsStatus i = false) ∧
    ∃ t, execWord 0x7078 { idle with vlen := 10 } = .next t := by
  refine ⟨fun i h => ?_, _, rfl⟩
  rw [show decode 0x7078 = .ok (.valPush 0x78) by decide] at h
  cases h
  rfl

theorem witness_CommandErrorUpdate :
    (readsStatus .nop = false ∧ ∃ t, exec .nop idle = .next t) ∧ readsStatus .statRd = true ∧
    decode 0xE000 = .error .reservedOpcode := ⟨⟨rfl, _, rfl⟩, rfl, by decide⟩

theorem witness_ReadsHaveNoOtherEffect :
    (∃ t, exec .accRead sending = .next t) ∧ (∃ t, exec .addrRd sending = .next t) ∧
    (∃ t, exec .plenRd atPayload = .next t) ∧ (∃ t, exec (.pbufRd 1) atPayload = .next t) ∧
    ∃ t, exec (.pbufRd 2) atPayload = .next t :=
  ⟨⟨_, rfl⟩, ⟨_, rfl⟩, ⟨_, rfl⟩, ⟨_, rfl⟩, _, rfl⟩

theorem witness_ResetEvent :
    { atPayload with inputs := [⟨0, [0x4A], .reset⟩] }.inputs = [⟨0, [0x4A], .reset⟩] ∧
    atPayload.params.wf = true := by decide

theorem witness_AfterResetTheBlockIsIdle :
    { Config.vectorParams with resetAddr := 99, payloadCap := 255, settleDelay := 7 }.wf = true := by
  decide

theorem witness_ResetSatisfiesTheInvariant :
    { Config.vectorParams with junkBudget := 1, payloadCap := 1, valueMax := 1 }.wf = true := by decide

theorem witness_EveryStepKeepsTheInvariant :
    StateInv (withOffer atPayload 1001 0x31) ∧
    ∃ t, step (withOffer atPayload 1001 0x31) = .next t :=
  ⟨inv_with_input _ _ inv_payload, _, rfl⟩

theorem witness_EveryStepKeepsTheChecksum :
    let s := withInput lastBodyByte 1 (.txAck true)
    let u := withOffer atPayload 1001 0x31
    (StateInv s ∧ AccTracksFrame s ∧ ∃ t, step s = .next t) ∧
    StateInv u ∧ AccTracksFrame u ∧ ∃ t, step u = .next t :=
  ⟨⟨inv_with_input _ _ inv_last_body_byte, by constructor <;> decide, _, rfl⟩,
    inv_with_input _ _ inv_payload, by constructor <;> decide, _, rfl⟩

theorem witness_ContractDecidesProgress :
    (StateInv (withInput idle 5 (.txAck true)) ∧
      (withInput idle 5 (.txAck true)).inputs = [⟨5, [], .txAck true⟩] ∧
      ¬contractHolds ⟨5, [], .txAck true⟩ (withInput idle 5 (.txAck true))) ∧
    contractHolds ⟨5, [], .txAck true⟩ (withInput sending 5 (.txAck true)) :=
  ⟨⟨inv_with_input _ _ inv_idle, rfl, by simp [contractHolds, withInput, encBusy, idle, State.reset,
    State.resetWith]⟩, by simp [contractHolds, withInput, encBusy, sending, idle, State.reset,
    State.resetWith]⟩

theorem witness_UnspecifiedStateIsNeverObserved :
    AgreeLive idle
      { idle with
        ah := 0x31, encW := true, encCmd := 0x75, lastT := 7, setT0 := 8
        vbuf := [(0, 0x31)], pbuf := [(3, 0x6F)] } := by
  constructor <;> first | rfl | decide

theorem witness_ParametersNeverChange : ∃ t, step (withInput idle 5 .tick) = .next t := ⟨_, rfl⟩

theorem witness_OnlyAddrWrAndResetWriteAddr :
    ∃ t, step (withInput idle 5 (.cmd 0x4063)) = .next t ∧ t.addr ≠ idle.addr :=
  ⟨_, rfl, by decide⟩

theorem witness_WritersOfAcc :
    (∃ t, step (withInput idle 5 (.cmd 0x203A)) = .next t ∧ t.acc ≠ idle.acc) ∧
    (∃ t, step (withInput sending 5 (.txAck true)) = .next t ∧ t.acc ≠ sending.acc) ∧
    ∃ t, step (withOffer seeking 1001 0x3A) = .next t ∧ t.acc ≠ seeking.acc :=
  ⟨⟨_, rfl, by decide⟩, ⟨_, rfl, by decide⟩, _, rfl, by decide⟩

theorem witness_ResultsStayUntilTheNextTransaction :
    let s := { idle with decResult := .timeout, encResult := .sent }
    (StateInv (withInput s 5 (.cmd 0x9000)) ∧ s.decResult ≠ .none ∧
      ∃ t, step (withInput s 5 (.cmd 0x9000)) = .next t ∧ t.decResult ≠ s.decResult) ∧
    StateInv (withInput s 5 (.cmd 0x8175)) ∧ s.encResult ≠ .none ∧
      ∃ t, step (withInput s 5 (.cmd 0x8175)) = .next t ∧ t.encResult ≠ s.encResult :=
  ⟨⟨by constructor <;> decide, by decide, _, rfl, by decide⟩,
    by constructor <;> decide, by decide, _, rfl, by decide⟩

theorem witness_TransportQueuesAreFifo :
    (∃ t, step (withOffer seeking 1001 0x3A) = .next t ∧ t.rxQueue = []) ∧
    ∃ t, step (withInput sending 5 (.txAck true)) = .next t ∧ t.txSent = [0x3A] :=
  ⟨⟨_, rfl, by decide⟩, _, rfl, by decide⟩

end Sys2Proof.Tests
end

section
/-! What each command does when it answers a next state: one inversion lemma per command with a guard
(spec/40_checksum.md, spec/41_encoder.md, spec/42_decoder.md), guards included, and the same for the
dispatch of command words and for the decoder's receive step. -/

namespace Sys2Proof.Machine

/-- All ACC_RESET can do (R102). -/
theorem execAccReset_next {s t : State} (h : execAccReset s = .next t) :
    (anyBusy s = true ∧ t = refuse .busy s) ∨
    (anyBusy s = false ∧ t = accept 0 { s with acc := 0 }) := by
  unfold execAccReset at h
  split at h
  · next hb => cases h; exact .inl ⟨hb, rfl⟩
  · next hb => cases h; exact .inr ⟨by simpa using hb, rfl⟩

/-- All ACC_ADD can do (R103). -/
theorem execAccAdd_next {d : Byte} {s t : State} (h : execAccAdd d s = .next t) :
    (anyBusy s = true ∧ t = refuse .busy s) ∨
    (anyBusy s = false ∧ t = accept 0 { s with acc := accAdd s.acc d }) := by
  unfold execAccAdd at h
  split at h
  · next hb => cases h; exact .inl ⟨hb, rfl⟩
  · next hb => cases h; exact .inr ⟨by simpa using hb, rfl⟩

/-- All ADDR_WR can do (R120). -/
theorem execAddrWr_next {n : Byte} {s t : State} (h : execAddrWr n s = .next t) :
    (anyBusy s = true ∧ t = refuse .busy s) ∨
    (anyBusy s = false ∧ isAddress n = false ∧ t = refuse .badOperand s) ∨
    (anyBusy s = false ∧ isAddress n = true ∧ t = accept 0 { s with addr := n.setWidth 7 }) := by
  unfold execAddrWr at h
  split at h
  · next hb => cases h; exact .inl ⟨hb, rfl⟩
  · next hb =>
    have hidle : anyBusy s = false := by simpa using hb
    split at h
    · next hn => cases h; exact .inr (.inl ⟨hidle, by simpa using hn, rfl⟩)
    · next hn => cases h; exact .inr (.inr ⟨hidle, by simpa using hn, rfl⟩)

/-- All VAL_CLR can do (R123). -/
theorem execValClr_next {s t : State} (h : execValClr s = .next t) :
    (encBusy s = true ∧ t = refuse .busy s) ∨
    (encBusy s = false ∧ t = accept 0 { s with vlen := 0 }) := by
  unfold execValClr at h
  split at h
  · next hb => cases h; exact .inl ⟨hb, rfl⟩
  · next hb => cases h; exact .inr ⟨by simpa using hb, rfl⟩

/-- All VAL_PUSH can do (R124). -/
theorem execValPush_next {c : Byte} {s t : State} (h : execValPush c s = .next t) :
    (encBusy s = true ∧ t = refuse .busy s) ∨
    (encBusy s = false ∧ isDigit c = false ∧ t = refuse .badOperand s) ∨
    (encBusy s = false ∧ isDigit c = true ∧ s.vlen = s.params.valueMax ∧ t = refuse .bufFull s) ∨
    (encBusy s = false ∧ isDigit c = true ∧ s.vlen < s.params.valueMax ∧
      t = accept 0 { s with vbuf := s.vbuf.write s.vlen c, vlen := s.vlen + 1 }) := by
  unfold execValPush at h
  split at h
  · next hb => cases h; exact .inl ⟨hb, rfl⟩
  · next hb =>
    have hidle : encBusy s = false := by simpa using hb
    split at h
    · next hc => cases h; exact .inr (.inl ⟨hidle, by simpa using hc, rfl⟩)
    · next hc =>
      have hdigit : isDigit c = true := by simpa using hc
      split at h
      · next hfull => cases h; exact .inr (.inr (.inl ⟨hidle, hdigit, hfull, rfl⟩))
      · rcases writeBuf_cases s.params.valueMax s.vbuf s.vlen c with ⟨hlt, e⟩ | ⟨_, e⟩
        · rw [e] at h
          cases h
          exact .inr (.inr (.inr ⟨hidle, hdigit, hlt, rfl⟩))
        · rw [e] at h
          cases h

/-- All ENC_SEND can do (R130). -/
theorem execEncSend_next {w : Bool} {c : Byte} {s t : State} (h : execEncSend w c s = .next t) :
    (anyBusy s = true ∧ t = refuse .busy s) ∨
    (anyBusy s = false ∧ isLowercase c = false ∧ t = refuse .badOperand s) ∨
    (anyBusy s = false ∧ isLowercase c = true ∧ t = accept 0
      { s with encW := w, encCmd := c, acc := 0, encResult := .none, encPh := .body, encI := 0 }) := by
  unfold execEncSend at h
  split at h
  · next hb => cases h; exact .inl ⟨hb, rfl⟩
  · next hb =>
    have hidle : anyBusy s = false := by simpa using hb
    split at h
    · next hc => cases h; exact .inr (.inl ⟨hidle, by simpa using hc, rfl⟩)
    · next hc => cases h; exact .inr (.inr ⟨hidle, by simpa using hc, rfl⟩)

/-- All DEC_START can do (R150). -/
theorem execDecStart_next {s t : State} (h : execDecStart s = .next t) :
    (anyBusy s = true ∧ t = refuse .busy s) ∨
    (anyBusy s = false ∧ t = accept 0
      { s with decSt := .seek, junk := 0, plen := 0, decResult := .none, lastT := s.tPrev }) := by
  unfold execDecStart at h
  split at h
  · next hb => cases h; exact .inl ⟨hb, rfl⟩
  · next hb => cases h; exact .inr ⟨by simpa using hb, rfl⟩

/-- All PBUF_RD can do when it answers a next state (R171). -/
theorem execPbufRd_next {i : Byte} {s t : State} (h : execPbufRd i s = .next t) :
    (s.plen ≤ i.toNat ∧ t = refuse .indexRange s) ∨
    (i.toNat < s.plen ∧ ∃ b, readBuf s.params.payloadCap s.pbuf i.toNat = .ok b ∧ t = accept b s) := by
  unfold execPbufRd at h
  split at h
  · next hle => cases h; exact .inl ⟨hle, rfl⟩
  · next hle =>
    split at h
    · next b hb => cases h; exact .inr ⟨by omega, b, hb, rfl⟩
    · cases h

/-- All a command word can do when it answers a next state (R190, R198). -/
theorem execWord_next {w : Word} {s t : State} (h : execWord w s = .next t) :
    (∃ i, decode w = .ok i ∧ exec i s = .next t) ∨
    (∃ e, decode w = .error e ∧ t = refuse .illegal s) := by
  unfold execWord at h
  split at h
  · next i hi => exact .inl ⟨i, hi, h⟩
  · next e he => cases h; exact .inr ⟨e, he, rfl⟩

/-- All the decoder can do with an offered byte when it answers a next state (R151, R157). -/
theorem decodeByte_next {b : Byte} {s t : State} (h : decodeByte b s = .next t) :
    ((s.decSt = .idle ∨ s.decSt = .settle) ∧ t = s) ∨
    (s.decSt = .seek ∧ t = rxSeek b s) ∨
    (s.decSt = .addrHi ∧ t = rxAddrHi b s) ∨
    (s.decSt = .addrLo ∧ t = rxAddrLo b s) ∨
    (s.decSt = .payload ∧ isUpper b = true ∧ t = rxChecksum b s) ∨
    (s.decSt = .payload ∧ isUpper b = false ∧ rxPayloadByte b s = .next t) ∨
    (s.decSt = .swallow ∧ t = rxSwallow b s) := by
  cases hd : s.decSt <;> simp only [decodeByte, hd] at h
  case payload =>
    split at h
    · next hu => cases h; simp [hu]
    · next hu => simp [hu, h]
  all_goals cases h; simp

end Sys2Proof.Machine
end

section
/-! The build-time parameters (spec/00_scope.md R8) through every part of a step. -/

namespace Sys2Proof.Machine

/-- No command writes a parameter. -/
theorem exec_params {i : Instr} {s t : State} (h : exec i s = .next t) : t.params = s.params := by
  cases i with
  | nop => cases h; rfl
  | accReset => rcases execAccReset_next h with ⟨_, rfl⟩ | ⟨_, rfl⟩ <;> rfl
  | accAdd d => rcases execAccAdd_next h with ⟨_, rfl⟩ | ⟨_, rfl⟩ <;> rfl
  | accRead => cases h; rfl
  | addrWr n => rcases execAddrWr_next h with ⟨_, rfl⟩ | ⟨_, _, rfl⟩ | ⟨_, _, rfl⟩ <;> rfl
  | addrRd => cases h; rfl
  | valClr => rcases execValClr_next h with ⟨_, rfl⟩ | ⟨_, rfl⟩ <;> rfl
  | valPush c =>
    rcases execValPush_next h with ⟨_, rfl⟩ | ⟨_, _, rfl⟩ | ⟨_, _, _, rfl⟩ | ⟨_, _, _, rfl⟩ <;> rfl
  | encSend w c => rcases execEncSend_next h with ⟨_, rfl⟩ | ⟨_, _, rfl⟩ | ⟨_, _, rfl⟩ <;> rfl
  | decStart => rcases execDecStart_next h with ⟨_, rfl⟩ | ⟨_, rfl⟩ <;> rfl
  | statRd => cases h; rfl
  | plenRd => cases h; rfl
  | pbufRd k => rcases execPbufRd_next h with ⟨_, rfl⟩ | ⟨_, _, _, rfl⟩ <;> rfl
  | errcRd => cases h; rfl

/-- No command word writes a parameter, an illegal one included. -/
theorem execWord_params {w : Word} {s t : State} (h : execWord w s = .next t) :
    t.params = s.params := by
  rcases execWord_next h with ⟨_, _, hi⟩ | ⟨_, _, rfl⟩
  · exact exec_params hi
  · rfl

@[simp] theorem advanceFrame_params (b : Byte) (s : State) :
    (advanceFrame b s).params = s.params := by
  rcases advanceFrame_cases b s with
    ⟨_, e⟩ | ⟨_, _, e⟩ | ⟨_, _, e⟩ | ⟨_, e⟩ | ⟨_, _, e⟩ | ⟨_, _, e⟩ <;> rw [e]

@[simp] theorem failFrame_params (s : State) : (failFrame s).params = s.params := rfl

@[simp] theorem rxSeek_params (b : Byte) (s : State) : (rxSeek b s).params = s.params := by
  rcases rxSeek_cases b s with ⟨_, e⟩ | ⟨_, _, e⟩ | ⟨_, _, e⟩ <;> rw [e]

@[simp] theorem rxAddrHi_params (b : Byte) (s : State) : (rxAddrHi b s).params = s.params := rfl

@[simp] theorem rxAddrLo_params (b : Byte) (s : State) : (rxAddrLo b s).params = s.params := by
  rcases rxAddrLo_cases b s with ⟨_, e⟩ | ⟨_, e⟩ <;> rw [e]

@[simp] theorem rxChecksum_params (b : Byte) (s : State) : (rxChecksum b s).params = s.params := by
  rcases rxChecksum_cases b s with ⟨_, e⟩ | ⟨_, e⟩ <;> rw [e]

@[simp] theorem rxSwallow_params (b : Byte) (s : State) : (rxSwallow b s).params = s.params := by
  rcases rxSwallow_cases b s with ⟨_, e⟩ | ⟨_, e⟩ <;> simp [e]

theorem rxPayloadByte_params {b : Byte} {s t : State} (h : rxPayloadByte b s = .next t) :
    t.params = s.params := by
  rcases rxPayloadByte_cases b s with ⟨_, _, e⟩ | ⟨_, _, e⟩ | ⟨_, e⟩ <;> rw [e] at h <;> cases h <;> rfl

/-- The decoder writes no parameter, whatever its state. -/
theorem decodeByte_params {b : Byte} {s t : State} (h : decodeByte b s = .next t) :
    t.params = s.params := by
  rcases decodeByte_next h with
    ⟨_, rfl⟩ | ⟨_, rfl⟩ | ⟨_, rfl⟩ | ⟨_, rfl⟩ | ⟨_, _, rfl⟩ | ⟨_, _, hp⟩ | ⟨_, rfl⟩
  case inr.inr.inr.inr.inr.inl => exact rxPayloadByte_params hp
  all_goals simp

/-- No event's own rule (R91 step 4) writes a parameter. -/
theorem handle_params {e : Event} {s t : State} (h : handle e s = .next t) :
    t.params = s.params := by
  cases e with
  | cmd w => exact execWord_params h
  | txAck ok =>
    cases ok with
    | true =>
      obtain ⟨b, _, rfl⟩ := txAckOk_next h
      simp
    | false =>
      obtain ⟨_, rfl⟩ := txAckFail_next h
      simp
  | rxOffer b => exact decodeByte_params (rxOffer_next h).2
  | rxNone => rcases rxNone_next h with ⟨_, ⟨_, rfl⟩ | ⟨_, rfl⟩⟩ <;> simp
  | tick => cases h; rfl
  | reset => cases h; rfl

/-- Settles O56: the events of R91 one by one, over the timer phase and the arrival of bytes. -/
theorem parametersNeverChange : Obligations.ParametersNeverChange := by
  intro s t h
  rcases step_cases h with ⟨_, rfl⟩ | ⟨x, rest, _, ⟨_, rfl⟩ | ⟨_, _, hx⟩⟩
  · rfl
  · simp
  · simpa using handle_params hx

end Sys2Proof.Machine
end

section
/-! The reset state meets the invariant of Sys2Proof/Safety.lean (spec/10_state.md R44, R45), and so does
the state after RESET (R240). -/

namespace Sys2Proof.Machine

/-- The ranges of R7, as facts about natural numbers. -/
theorem Params.wf_iff {p : Params} : p.wf = true ↔
    1 ≤ p.junkBudget ∧ 1 ≤ p.charTimeout ∧ (1 ≤ p.payloadCap ∧ p.payloadCap ≤ 255) ∧
    (1 ≤ p.valueMax ∧ p.valueMax ≤ 255) ∧ 1 ≤ p.resetAddr ∧ p.resetAddr ≤ 99 := by
  simp [Params.wf, and_assoc]

/-- The reset values of R44 lie in their ranges: the buffers are empty, and both engines are idle, which
leaves nothing to show of the phases and timers. -/
theorem resetWith_inv {p : Params} (hp : p.wf = true) : StateInv (State.resetWith p) := by
  obtain ⟨_, _, _, _, hlo, hhi⟩ := Params.wf_iff.mp hp
  have haddr : (BitVec.ofNat 7 p.resetAddr).toNat = p.resetAddr := by
    simp only [BitVec.toNat_ofNat]; omega
  constructor
  case params_wf => exact hp
  case addr_range => simpa only [State.resetWith, haddr] using ⟨hlo, hhi⟩
  case vbuf_wf | pbuf_wf => exact Memory.wf_nil
  all_goals simp [State.resetWith, reading, encBusy, decBusy]

/-- With both engines idle ACC tracks no frame. -/
theorem resetWith_tracks (p : Params) : AccTracksFrame (State.resetWith p) := by
  constructor <;> simp [State.resetWith]

/-- RESET (R240) leads to a reset state beside the transport's queues, which no bound speaks of. -/
theorem StateInv.hardReset {s : State} (h : StateInv s) : StateInv (hardReset s) :=
  { resetWith_inv h.params_wf with }

/-- Settles O51: the parameters of the model's own reset state are in range too. -/
theorem resetSatisfiesTheInvariant : Obligations.ResetSatisfiesTheInvariant :=
  ⟨fun p hp => ⟨resetWith_inv hp, resetWith_tracks p⟩, resetWith_inv (by decide)⟩

end Sys2Proof.Machine
end

section
/-! The invariant through the shared state updates: one rule per update, which names the fields of
`StateInv` the update touches. Every other field is the old one. -/

namespace Sys2Proof.Machine

variable {s : State}

/-- A legal address fits the seven bits of ADDR (R24, R120). -/
theorem setWidth_address {n : Byte} (hn : isAddress n = true) : (n.setWidth 7).toNat = n.toNat := by
  simp only [isAddress, Bool.and_eq_true, decide_eq_true_eq] at hn
  rw [BitVec.toNat_setWidth]
  omega

theorem encBusy_eq_false : encBusy s = false ↔ s.encPh = .idle := by simp [encBusy]

/-- ACC stays in the range of R23. -/
theorem accAdd_le (a : BitVec 5) (b : Byte) : (accAdd a b).toNat ≤ 25 := by
  rw [accAdd_toNat]; omega

/-- The one entry added to a buffer filled up to `n` fills it up to `n + 1`. -/
theorem Memory.filled_write {m : Memory} {n : Nat} {b : Byte} {P : Byte → Prop}
    (h : ∀ i < n, ∃ c, m.read i = some c ∧ P c) (hb : P b) :
    ∀ i < n + 1, ∃ c, (m.write n b).read i = some c ∧ P c := by
  intro i hi
  by_cases hin : i = n
  · exact ⟨b, hin ▸ m.read_write_same n b, hb⟩
  · rw [m.read_write_other b hin]
    exact h i (by omega)

/-- A write inside the capacity adds no entry past it. -/
theorem Memory.range_write {m : Memory} {cap n : Nat} {b : Byte} (h : ∀ c ∈ m, c.1 < cap)
    (hn : n < cap) : ∀ c ∈ m.write n b, c.1 < cap := by
  intro c hc
  rcases Memory.mem_write hc with rfl | hm
  · exact hn
  · exact h c hm

/-- While the decoder runs the encoder does not (R45). -/
theorem StateInv.encPh_idle (h : StateInv s) (hd : s.decSt ≠ .idle) : s.encPh = .idle := by
  by_contra he
  have := h.half_duplex (encBusy_eq_true.mpr he)
  simp [decBusy, hd] at this

/-- While the encoder runs the decoder does not (R45). -/
theorem StateInv.decSt_idle (h : StateInv s) (he : s.encPh ≠ .idle) : s.decSt = .idle := by
  by_contra hd
  exact he (h.encPh_idle hd)

/-! ### The ports and the command report -/

theorem StateInv.withQueues (h : StateInv s) (q sent : List Byte) (xs : List Input) :
    StateInv { s with rxQueue := q, txSent := sent, inputs := xs } := { h with }

theorem StateInv.accept (h : StateInv s) (r : Byte) : StateInv (accept r s) :=
  { h with cmdErr_iff := by simp }

theorem StateInv.acceptQuietly (h : StateInv s) (r : Byte) : StateInv (acceptQuietly r s) := { h with }

theorem StateInv.refuse (h : StateInv s) {c : Cause} (hc : c ≠ .none) : StateInv (refuse c s) :=
  { h with cmdErr_iff := by simpa using hc }

theorem StateInv.setAcc (h : StateInv s) {a : BitVec 5} (ha : a.toNat ≤ 25) :
    StateInv { s with acc := a } := { h with acc_le := ha }

/-! ### The encoder -/

/-- ADDR takes a legal address (R120). -/
theorem StateInv.setAddr (h : StateInv s) {n : Byte} (hn : isAddress n = true) :
    StateInv { s with addr := n.setWidth 7 } := by
  have hrange : 1 ≤ n.toNat ∧ n.toNat ≤ 99 := by simpa [isAddress] using hn
  exact { h with addr_range := by simpa only [setWidth_address hn] using hrange }

/-- The value is cleared while no frame is being sent (R123). -/
theorem StateInv.clearValue (h : StateInv s) (he : s.encPh = .idle) : StateInv { s with vlen := 0 } :=
  { h with
    vlen_le := Nat.zero_le _
    vbuf_digits := by simp
    encI_body := by simp [he] }

/-- A digit is added to the value while no frame is being sent (R124). -/
theorem StateInv.pushDigit (h : StateInv s) (he : s.encPh = .idle) {c : Byte} (hc : isDigit c = true)
    (hlt : s.vlen < s.params.valueMax) :
    StateInv { s with vbuf := s.vbuf.write s.vlen c, vlen := s.vlen + 1 } :=
  { h with
    vlen_le := hlt
    vbuf_wf := Memory.wf_write _ _ _ h.vbuf_wf
    vbuf_range := Memory.range_write h.vbuf_range hlt
    vbuf_digits := Memory.filled_write h.vbuf_digits hc
    encI_body := by simp [he] }

/-- A frame starts while the decoder is idle (R130). -/
theorem StateInv.startFrame (h : StateInv s) (hd : decBusy s = false) (w : Bool) {c : Byte}
    (hc : isLowercase c = true) :
    StateInv { s with
      encW := w, encCmd := c, acc := 0, encResult := .none, encPh := .body, encI := 0 } :=
  { h with
    acc_le := Nat.zero_le _
    half_duplex := fun _ => hd
    encResult_none := fun _ => rfl
    encI_zero := fun _ => rfl
    encI_body := fun _ => by simp [bodyLength]
    encI_term := by simp
    encCmd_letter := fun _ => hc }

/-- A frame ends, sent or abandoned (R134, R135). -/
theorem StateInv.endFrame (h : StateInv s) (r : EncResult) :
    StateInv { s with encPh := .idle, encI := 0, encResult := r, vlen := 0 } :=
  { h with
    vlen_le := Nat.zero_le _
    vbuf_digits := by simp
    half_duplex := by simp [encBusy]
    encResult_none := by simp [encBusy]
    encI_zero := fun _ => rfl
    encI_body := by simp
    encI_term := by simp
    encCmd_letter := by simp [encBusy] }

/-- The encoder moves to a phase in which it runs on, at an index that exists there (R26). -/
theorem StateInv.moveEnc (h : StateInv s) (hs : s.encPh ≠ .idle) {p : EncPhase} {i : Nat}
    (hp : (p = .body ∧ i < bodyLength s) ∨ (p = .ck ∧ i = 0) ∨
      (p = .term ∧ i < (termBytes s.params.txTerm).length)) :
    StateInv { s with encPh := p, encI := i } :=
  { h with
    half_duplex := fun _ => by simp [decBusy, h.decSt_idle hs]
    encResult_none := fun _ => h.encResult_none (encBusy_eq_true.mpr hs)
    encI_zero := by
      rintro (rfl | rfl)
      · simp at hp
      · simpa using hp
    encI_body := by rintro rfl; simpa [bodyLength] using hp
    encI_term := by rintro rfl; simpa using hp
    encCmd_letter := fun _ => h.encCmd_letter (encBusy_eq_true.mpr hs) }

/-! ### The decoder -/

/-- An attempt starts while the encoder is idle (R150). -/
theorem StateInv.startAttempt (h : StateInv s) (he : encBusy s = false) :
    StateInv { s with decSt := .seek, junk := 0, plen := 0, decResult := .none, lastT := s.tPrev } := by
  obtain ⟨hbudget, htimeout, ⟨hcap, _⟩, _⟩ := Params.wf_iff.mp h.params_wf
  exact
  { h with
    plen_le := Nat.zero_le _
    pbuf_written := by simp
    junk_le := Nat.zero_le _
    junk_lt := fun _ => hbudget
    plen_zero := fun _ => rfl
    plen_lt := fun _ => hcap
    half_duplex := fun hb => absurd (he.symm.trans hb) (by decide)
    decResult_none := fun _ => rfl
    lastT_le := fun _ => le_rfl
    setT0_le := by simp
    char_running := fun _ => by simp only; omega
    settle_running := by simp }

/-- The attempt ends (R13): no bound of a running attempt is left. -/
theorem StateInv.finish (h : StateInv s) (r : DecResult) : StateInv (finish r s) :=
  { h with
    junk_lt := by simp [reading]
    plen_zero := by simp
    plen_lt := by simp
    half_duplex := by simp [decBusy]
    decResult_none := by simp [decBusy]
    lastT_le := by simp [reading]
    setT0_le := by simp
    char_running := by simp [reading]
    settle_running := by simp }

/-- A byte is taken: the per-character timer starts again (R33). -/
theorem StateInv.receive (h : StateInv s) {a : BitVec 5} (ha : a.toNat ≤ 25) (q : List Byte) :
    StateInv { s with rxQueue := q, acc := a, lastT := s.tPrev } :=
  { h with
    acc_le := ha
    lastT_le := fun _ => le_rfl
    char_running := fun _ => by
      have := (Params.wf_iff.mp h.params_wf).2.1
      simp only
      omega }

/-- The moves from one part of a response to the next (R151). -/
def FrameMove (d d' : DecState) : Prop :=
  (d = .seek ∧ d' = .addrHi) ∨ (d = .addrHi ∧ d' = .addrLo) ∨ (d = .addrLo ∧ d' = .payload) ∨
  (d = .payload ∧ d' = .swallow)

/-- A move inside a frame keeps the counts: no junk is counted and nothing is stored by it. -/
theorem StateInv.moveDec (h : StateInv s) {d : DecState} (hm : FrameMove s.decSt d) :
    StateInv { s with decSt := d } := by
  have hreading : reading s = true := by
    rw [reading_eq_true]; rcases hm with ⟨e, _⟩ | ⟨e, _⟩ | ⟨e, _⟩ | ⟨e, _⟩ <;> simp [e]
  have hbusy : s.decSt ≠ .idle := by
    rcases hm with ⟨e, _⟩ | ⟨e, _⟩ | ⟨e, _⟩ | ⟨e, _⟩ <;> simp [e]
  have hsettle : d ≠ .settle := by
    rcases hm with ⟨_, rfl⟩ | ⟨_, rfl⟩ | ⟨_, rfl⟩ | ⟨_, rfl⟩ <;> decide
  have hcap := (Params.wf_iff.mp h.params_wf).2.2.1.1
  exact
  { h with
    junk_lt := fun _ => h.junk_lt (.inl hreading)
    plen_zero := by
      rcases hm with ⟨e, rfl⟩ | ⟨e, rfl⟩ | ⟨_, rfl⟩ | ⟨_, rfl⟩
      · exact fun _ => h.plen_zero (.inl e)
      · exact fun _ => h.plen_zero (.inr (.inl e))
      · simp
      · simp
    plen_lt := by
      rcases hm with ⟨_, rfl⟩ | ⟨_, rfl⟩ | ⟨e, rfl⟩ | ⟨e, rfl⟩
      · simp
      · simp
      · have hzero := h.plen_zero (.inr (.inr e))
        exact fun _ => by simp only; omega
      · exact fun _ => h.plen_lt (.inl e)
    half_duplex := by simp [encBusy, h.encPh_idle hbusy]
    decResult_none := fun _ => h.decResult_none (decBusy_eq_true.mpr hbusy)
    lastT_le := fun _ => h.lastT_le (.inl hreading)
    setT0_le := fun e => absurd e hsettle
    char_running := fun _ => h.char_running (.inl hreading)
    settle_running := fun e => absurd e hsettle }

/-- A junk byte is counted while the budget lasts (R153). -/
theorem StateInv.countJunk (h : StateInv s) (hlt : s.junk + 1 < s.params.junkBudget) :
    StateInv { s with junk := s.junk + 1 } :=
  { h with junk_le := hlt.le, junk_lt := fun _ => hlt }

/-- The last junk byte of the budget is counted in IDLE, where the attempt has just ended (R153). -/
theorem StateInv.countLastJunk (h : StateInv s) (hd : s.decSt = .idle)
    (hle : s.junk + 1 ≤ s.params.junkBudget) : StateInv { s with junk := s.junk + 1 } :=
  { h with junk_le := hle, junk_lt := by simp [reading, hd] }

/-- A payload byte is stored (R156) with room for one more, or in IDLE as the last that fits. -/
theorem StateInv.storePayload (h : StateInv s) {b : Byte} (hb : isUpper b = false)
    (hlt : s.plen < s.params.payloadCap)
    (hd : s.decSt = .idle ∨ s.decSt = .payload ∧ s.plen + 1 < s.params.payloadCap) :
    StateInv { s with pbuf := s.pbuf.write s.plen b, plen := s.plen + 1 } :=
  { h with
    plen_le := hlt
    pbuf_wf := Memory.wf_write _ _ _ h.pbuf_wf
    pbuf_range := Memory.range_write h.pbuf_range hlt
    pbuf_written := Memory.filled_write h.pbuf_written hb
    plen_zero := by rcases hd with e | ⟨e, _⟩ <;> simp [e]
    plen_lt := by
      rcases hd with e | ⟨e, hroom⟩
      · simp [e]
      · exact fun _ => hroom }

/-- Time advances to a moment at which no running timer has expired (R91 step 2). -/
theorem StateInv.setTime (h : StateInv s) {t : Nat} (ht : s.tPrev ≤ t)
    (hchar : reading s = true ∨ s.decSt = .swallow → t < s.lastT + s.params.charTimeout)
    (hsettle : s.decSt = .settle → t < s.setT0 + s.params.settleDelay) :
    StateInv { s with tPrev := t } :=
  { h with
    lastT_le := fun hr => (h.lastT_le hr).trans ht
    setT0_le := fun hd => (h.setT0_le hd).trans ht
    char_running := hchar
    settle_running := hsettle }

/-- In IDLE no timer runs, and time may advance to any moment. -/
theorem StateInv.setTime_idle (h : StateInv s) {t : Nat} (ht : s.tPrev ≤ t) (hd : s.decSt = .idle) :
    StateInv { s with tPrev := t } := by
  refine h.setTime ht ?_ ?_ <;> simp [reading, hd]

/-- The frame is complete at time `t` (R163): the attempt ends, or the settle timer starts. -/
theorem StateInv.enterSettle (h : StateInv s) (hd : s.decSt = .swallow) {t : Nat} (ht : s.tPrev ≤ t) :
    StateInv (enterSettle t { s with tPrev := t }) := by
  rcases enterSettle_cases t { s with tPrev := t } with ⟨_, e⟩ | ⟨hdelay, e⟩ <;> rw [e]
  · exact
    { (h.finish .frameOk).setTime_idle ht rfl with setT0_le := by simp, settle_running := by simp }
  · have hbusy : s.decSt ≠ .idle := by simp [hd]
    exact
    { h with
      junk_lt := fun _ => h.junk_lt (.inr (.inl hd))
      plen_zero := by simp
      plen_lt := fun _ => h.plen_lt (.inr (.inl hd))
      half_duplex := by simp [encBusy, h.encPh_idle hbusy]
      decResult_none := fun _ => h.decResult_none (decBusy_eq_true.mpr hbusy)
      lastT_le := by simp [reading]
      setT0_le := fun _ => le_rfl
      char_running := by simp [reading]
      settle_running := fun _ => by
        simp only
        have : 0 < s.params.settleDelay := Nat.pos_of_ne_zero hdelay
        omega }

end Sys2Proof.Machine
end

section
/-! Every part of a step keeps the invariant: the timer phase, the commands, the transmit and the receive
port. -/

namespace Sys2Proof.Machine

variable {s t : State}

/-- All steps 2 and 3 of R91 can do: time passes alone only where it stays below every running
deadline (R160). -/
theorem advanceTime_cases (t : Nat) (s : State) :
    ((reading s = true ∨ s.decSt = .swallow → t - s.lastT < s.params.charTimeout) ∧
      (s.decSt = .settle → t - s.setT0 < s.params.settleDelay) ∧
      advanceTime t s = { s with tPrev := t }) ∨
    (reading s = true ∧ advanceTime t s = finish .timeout { s with tPrev := t }) ∨
    (s.decSt = .swallow ∧ advanceTime t s = enterSettle t { s with tPrev := t }) ∨
    (s.decSt = .settle ∧ advanceTime t s = finish .frameOk { s with tPrev := t }) := by
  unfold advanceTime timerPhase
  split <;> rename_i hd <;> (try split) <;> rename_i hx <;>
    simp_all [reading, charExpired, settleExpired]

/-- Steps 2 and 3 of R91 keep the invariant: a timer that has expired at the new time is dealt with by
the timer phase (R160), and every other one runs on. -/
theorem StateInv.advanceTime (h : StateInv s) {t : Nat} (ht : s.tPrev ≤ t) :
    StateInv (advanceTime t s) := by
  rcases advanceTime_cases t s with ⟨hchar, hsettle, e⟩ | ⟨_, e⟩ | ⟨hd, e⟩ | ⟨_, e⟩ <;> rw [e]
  · refine h.setTime ht (fun hr => ?_) (fun hd => ?_)
    · have := hchar hr
      have := h.lastT_le hr
      omega
    · have := hsettle hd
      have := h.setT0_le hd
      omega
  · exact (h.finish .timeout).setTime_idle ht rfl
  · exact h.enterSettle hd ht
  · exact (h.finish .frameOk).setTime_idle ht rfl

/-! ### Commands -/

/-- Every command keeps the invariant, whether it is accepted or refused (R193). -/
theorem exec_inv {i : Instr} (h : StateInv s) (hx : exec i s = .next t) : StateInv t := by
  cases i with
  | nop => cases hx; exact h.accept 0
  | accReset =>
    rcases execAccReset_next hx with ⟨_, rfl⟩ | ⟨_, rfl⟩
    · exact h.refuse (by decide)
    · exact (h.setAcc (by decide)).accept 0
  | accAdd d =>
    rcases execAccAdd_next hx with ⟨_, rfl⟩ | ⟨_, rfl⟩
    · exact h.refuse (by decide)
    · exact (h.setAcc (accAdd_le s.acc d)).accept 0
  | accRead => cases hx; exact h.accept _
  | addrWr n =>
    rcases execAddrWr_next hx with ⟨_, rfl⟩ | ⟨_, _, rfl⟩ | ⟨_, hn, rfl⟩
    · exact h.refuse (by decide)
    · exact h.refuse (by decide)
    · exact (h.setAddr hn).accept 0
  | addrRd => cases hx; exact h.accept _
  | valClr =>
    rcases execValClr_next hx with ⟨_, rfl⟩ | ⟨he, rfl⟩
    · exact h.refuse (by decide)
    · exact (h.clearValue (encBusy_eq_false.mp he)).accept 0
  | valPush c =>
    rcases execValPush_next hx with ⟨_, rfl⟩ | ⟨_, _, rfl⟩ | ⟨_, _, _, rfl⟩ | ⟨he, hc, hlt, rfl⟩
    · exact h.refuse (by decide)
    · exact h.refuse (by decide)
    · exact h.refuse (by decide)
    · exact (h.pushDigit (encBusy_eq_false.mp he) hc hlt).accept 0
  | encSend w c =>
    rcases execEncSend_next hx with ⟨_, rfl⟩ | ⟨_, _, rfl⟩ | ⟨hb, hc, rfl⟩
    · exact h.refuse (by decide)
    · exact h.refuse (by decide)
    · exact (h.startFrame (Bool.or_eq_false_iff.mp hb).2 w hc).accept 0
  | decStart =>
    rcases execDecStart_next hx with ⟨_, rfl⟩ | ⟨hb, rfl⟩
    · exact h.refuse (by decide)
    · exact (h.startAttempt (Bool.or_eq_false_iff.mp hb).1).accept 0
  | statRd => cases hx; exact h.acceptQuietly _
  | plenRd => cases hx; exact h.accept _
  | pbufRd k =>
    rcases execPbufRd_next hx with ⟨_, rfl⟩ | ⟨_, b, _, rfl⟩
    · exact h.refuse (by decide)
    · exact h.accept b
  | errcRd => cases hx; exact h.acceptQuietly _

/-! ### The transmit port -/

theorem termBytes_length_pos (p : TxTerm) : 0 < (termBytes p).length := by cases p <;> decide

/-- The encoder's advance keeps the invariant: each index it moves to exists in its phase. -/
theorem advanceFrame_inv {b : Byte} (h : StateInv s) : StateInv (advanceFrame b s) := by
  have hacc := h.setAcc (accAdd_le s.acc b)
  rcases advanceFrame_cases b s with
    ⟨_, e⟩ | ⟨hp, hi, e⟩ | ⟨hp, _, e⟩ | ⟨hp, e⟩ | ⟨hp, hi, e⟩ | ⟨_, _, e⟩ <;> rw [e]
  · exact h
  · have hlt := h.encI_body hp
    exact hacc.moveEnc (by simp [hp]) (.inl ⟨hp, by simp only [bodyLength] at *; omega⟩)
  · exact hacc.moveEnc (by simp [hp]) (.inr (.inl ⟨rfl, rfl⟩))
  · exact h.moveEnc (by simp [hp]) (.inr (.inr ⟨rfl, termBytes_length_pos _⟩))
  · have hlt := h.encI_term hp
    exact h.moveEnc (by simp [hp]) (.inr (.inr ⟨hp, by omega⟩))
  · exact h.endFrame .sent

/-- An abandoned frame leaves ACC in its range, drawn or kept (R135). -/
theorem failFrame_inv (h : StateInv s) : StateInv (failFrame s) := by
  have hacc : (accAfterFailure s).toNat ≤ 25 := by
    unfold accAfterFailure
    split
    · have := (Config.freeAcc s.draws).isLt
      simp only [BitVec.toNat_ofNat]
      omega
    · exact h.acc_le
  exact { (h.setAcc hacc).endFrame .txError with }

/-! ### The receive port -/

/-- The decoder's step in each of its states keeps the invariant (R151): the byte is taken, and then the
attempt moves on or ends. -/
theorem decodeByte_inv {b : Byte} (h : StateInv s) (hx : decodeByte b s = .next t) : StateInv t := by
  have htaken := h.receive h.acc_le s.rxQueue.tail
  have hadded := h.receive (accAdd_le s.acc b) s.rxQueue.tail
  rcases decodeByte_next hx with
    ⟨_, rfl⟩ | ⟨hd, rfl⟩ | ⟨hd, rfl⟩ | ⟨hd, rfl⟩ | ⟨hd, _, rfl⟩ | ⟨hd, hb, hp⟩ | ⟨hd, rfl⟩
  case inl => exact h
  case inr.inl =>
    have hlt := h.junk_lt (.inl (reading_eq_true.mpr (.inl hd)))
    rcases rxSeek_cases b s with ⟨_, e⟩ | ⟨_, hj, e⟩ | ⟨_, hj, e⟩ <;> rw [e]
    · exact (h.receive (accAdd_le 0 b) _).moveDec (.inl ⟨hd, rfl⟩)
    · exact htaken.countJunk (Nat.lt_of_le_of_ne hlt hj)
    · exact (htaken.finish .junkOverflow).countLastJunk rfl hj.le
  case inr.inr.inl =>
    exact { hadded.moveDec (.inr (.inl ⟨hd, rfl⟩)) with }
  case inr.inr.inr.inl =>
    rcases rxAddrLo_cases b s with ⟨_, e⟩ | ⟨_, e⟩ <;> rw [e]
    · exact hadded.moveDec (.inr (.inr (.inl ⟨hd, rfl⟩)))
    · exact hadded.finish .addressMismatch
  case inr.inr.inr.inr.inl =>
    rcases rxChecksum_cases b s with ⟨_, e⟩ | ⟨_, e⟩ <;> rw [e]
    · exact htaken.moveDec (.inr (.inr (.inr ⟨hd, rfl⟩)))
    · exact (h.withQueues s.rxQueue.tail s.txSent s.inputs).finish .checksumError
  case inr.inr.inr.inr.inr.inl =>
    rcases rxPayloadByte_cases b s with ⟨hlt, hne, e⟩ | ⟨hlt, _, e⟩ | ⟨_, e⟩ <;> rw [e] at hp <;> cases hp
    · exact hadded.storePayload hb hlt (.inr ⟨hd, Nat.lt_of_le_of_ne hlt hne⟩)
    · exact (hadded.finish .malformedFrame).storePayload hb hlt (.inl rfl)
  case inr.inr.inr.inr.inr.inr =>
    rcases rxSwallow_cases b s with ⟨_, e⟩ | ⟨_, e⟩ <;> rw [e]
    · exact htaken
    · exact h.enterSettle hd le_rfl

/-! ### Every step -/

/-- The event's own rule (R91 step 4) keeps the invariant. -/
theorem handle_inv {e : Event} (h : StateInv s) (hx : handle e s = .next t) : StateInv t := by
  cases e with
  | cmd w =>
    rcases execWord_next hx with ⟨_, _, hi⟩ | ⟨_, _, rfl⟩
    · exact exec_inv h hi
    · exact h.refuse (by decide)
  | txAck ok =>
    cases ok with
    | true =>
      obtain ⟨b, _, rfl⟩ := txAckOk_next hx
      exact advanceFrame_inv (h.withQueues s.rxQueue _ s.inputs)
    | false =>
      obtain ⟨_, rfl⟩ := txAckFail_next hx
      exact failFrame_inv h
  | rxOffer b => exact decodeByte_inv h (rxOffer_next hx).2
  | rxNone =>
    obtain ⟨_, ⟨hd, rfl⟩ | ⟨_, rfl⟩⟩ := rxNone_next hx
    · exact h.enterSettle hd le_rfl
    · exact h
  | tick => cases hx; exact h
  | reset => cases hx; exact h.hardReset

/-- Settles O52: the arrival of bytes, time and the event's own rule each keep the invariant (R91). -/
theorem everyStepKeepsTheInvariant : Obligations.EveryStepKeepsTheInvariant := by
  intro s t h hstep
  rcases step_cases hstep with ⟨_, rfl⟩ | ⟨x, rest, _, ⟨_, rfl⟩ | ⟨_, ht, hx⟩⟩
  · exact h
  · exact (h.withQueues _ s.txSent rest).hardReset
  · exact handle_inv ((h.withQueues _ s.txSent rest).advanceTime ht) hx

end Sys2Proof.Machine
end

section
/-! What R44 and I6 call unspecified, as data beside the state: two states that `AgreeLive` are one state
under two choices of that data. A guard that reads none of it is then the same term for both. -/

namespace Sys2Proof.Machine

/-- A choice of the seven pieces of state that R44 and I6 leave unspecified at times. -/
structure Unspecified where
  ah : Byte
  encW : Bool
  encCmd : Byte
  lastT : Nat
  setT0 : Nat
  vbuf : Memory
  pbuf : Memory

/-- The state under another choice of them. -/
def State.choosing (s : State) (d : Unspecified) : State :=
  { s with
    ah := d.ah, encW := d.encW, encCmd := d.encCmd, lastT := d.lastT, setT0 := d.setT0
    vbuf := d.vbuf, pbuf := d.pbuf }

/-- The choice keeps every piece a rule may read in this state (the clauses of `AgreeLive`). -/
structure Unspecified.Fits (d : Unspecified) (s : State) : Prop where
  ah : s.decSt = .addrLo → d.ah = s.ah
  encW : s.encPh = .body → d.encW = s.encW
  encCmd : s.encPh = .body → d.encCmd = s.encCmd
  lastT : reading s = true ∨ s.decSt = .swallow → d.lastT = s.lastT
  setT0 : s.decSt = .settle → d.setT0 = s.setT0
  vbuf : ∀ i < s.vlen, d.vbuf.read i = s.vbuf.read i
  pbuf : ∀ i < s.plen, d.pbuf.read i = s.pbuf.read i

theorem AgreeLive.exists_fits {s u : State} (h : AgreeLive s u) : ∃ d, u = s.choosing d ∧ d.Fits s :=
  ⟨⟨u.ah, u.encW, u.encCmd, u.lastT, u.setT0, u.vbuf, u.pbuf⟩, h.others, { h with }⟩

theorem AgreeLive.refl (s : State) : AgreeLive s s := by constructor <;> simp

/-- Branching alike on one condition. -/
theorem rel_ite {α : Type} {R : α → α → Prop} {c : Prop} [Decidable c] {a a' b b' : α}
    (ht : c → R a a') (hf : ¬c → R b b') : R (if c then a else b) (if c then a' else b') := by
  split
  · next hc => exact ht hc
  · next hc => exact hf hc

/-- A buffer read sees nothing of a buffer but the entry read. -/
theorem readBuf_congr {cap i : Nat} {m n : Memory} (h : m.read i = n.read i) :
    readBuf cap m i = readBuf cap n i := by simp only [readBuf, h]

/-- Buffers that agree below `n` agree below `n + 1` once the same byte is written at `n`. -/
theorem Memory.read_write_congr {m m' : Memory} {n : Nat} (b : Byte)
    (h : ∀ i < n, m'.read i = m.read i) :
    ∀ i < n + 1, (m'.write n b).read i = (m.write n b).read i := by
  intro i hi
  by_cases hin : i = n
  · rw [hin, Memory.read_write_same, Memory.read_write_same]
  · rw [Memory.read_write_other _ _ hin, Memory.read_write_other _ _ hin]
    exact h i (by omega)

namespace Unspecified.Fits

variable {s : State} {d : Unspecified}

theorem agree (h : d.Fits s) : AgreeLive s (s.choosing d) := { h with others := rfl }

theorem next (h : d.Fits s) : SameOutcome AgreeLive (.next s) (.next (s.choosing d)) := h.agree

/-! ### The updates -/

theorem withQueues (h : d.Fits s) (q sent : List Byte) (xs : List Input) :
    d.Fits { s with rxQueue := q, txSent := sent, inputs := xs } := { h with }

theorem setTime (h : d.Fits s) (t : Nat) : d.Fits { s with tPrev := t } := { h with }

theorem setAcc (h : d.Fits s) (a : BitVec 5) : d.Fits { s with acc := a } := { h with }

theorem setAddr (h : d.Fits s) (a : BitVec 7) : d.Fits { s with addr := a } := { h with }

theorem accept (h : d.Fits s) (r : Byte) : d.Fits (accept r s) := { h with }

theorem acceptQuietly (h : d.Fits s) (r : Byte) : d.Fits (acceptQuietly r s) := { h with }

theorem refuse (h : d.Fits s) (c : Cause) : d.Fits (refuse c s) := { h with }

/-- The end of an attempt leaves nothing of AH, LAST_T and SET_T0 to read. -/
theorem finish (h : d.Fits s) (r : DecResult) : d.Fits (finish r s) :=
  { h with ah := by simp, lastT := by simp [reading], setT0 := by simp }

/-- A byte is taken: LAST_T is written in both states. -/
theorem receive (h : d.Fits s) (q : List Byte) (a : BitVec 5) :
    { d with lastT := s.tPrev }.Fits { s with rxQueue := q, acc := a, lastT := s.tPrev } :=
  { h with lastT := fun _ => rfl }

/-- The decoder moves on within a frame, to a state that does not read AH or SET_T0. -/
theorem moveDec (h : d.Fits s) {c : DecState} (hr : reading s = true)
    (hc : c = .addrHi ∨ c = .payload ∨ c = .swallow) : d.Fits { s with decSt := c } :=
  { h with
    ah := by rintro rfl; simp at hc
    lastT := fun _ => h.lastT (.inl hr)
    setT0 := by rintro rfl; simp at hc }

/-- The value is cleared: nothing of VBUF is left to read. -/
theorem clearValue (h : d.Fits s) : d.Fits { s with vlen := 0 } := { h with vbuf := by simp }

/-- The encoder moves within its phase, or to a phase that reads neither ENC_W nor ENC_CMD. -/
theorem moveEnc (h : d.Fits s) {p : EncPhase} (hp : p = s.encPh ∨ p ≠ .body) (i : Nat) :
    d.Fits { s with encPh := p, encI := i } :=
  { h with
    encW := by rintro rfl; exact h.encW (by simpa [eq_comm] using hp)
    encCmd := by rintro rfl; exact h.encCmd (by simpa [eq_comm] using hp) }

end Unspecified.Fits

end Sys2Proof.Machine
end

section
/-! No part of a step observes what R44 and I6 call unspecified: on two states that differ in it only,
each function of the machine gives outcomes of the same kind that agree again. -/

namespace Sys2Proof.Machine

variable {s : State} {d : Unspecified}

/-! ### Timers -/

theorem enterSettle_agree (h : d.Fits s) (t : Nat) :
    AgreeLive (enterSettle t s) (enterSettle t (s.choosing d)) := by
  have hset : { d with setT0 := t }.Fits { s with decSt := .settle, setT0 := t } :=
    { h with ah := by simp, lastT := by simp [reading], setT0 := fun _ => rfl }
  exact rel_ite (fun _ => (hset.finish .frameOk).agree) (fun _ => hset.agree)

/-- Each timer reads only the time that is specified in its state (R33, R34). -/
theorem timerPhase_agree (h : d.Fits s) (t : Nat) :
    AgreeLive (timerPhase t s) (timerPhase t (s.choosing d)) := by
  have hchar (hr : reading s = true ∨ s.decSt = .swallow) :
      charExpired t (s.choosing d) = charExpired t s := by
    simp [charExpired, State.choosing, h.lastT hr]
  have hsettle (hd : s.decSt = .settle) : settleExpired t (s.choosing d) = settleExpired t s := by
    simp [settleExpired, State.choosing, h.setT0 hd]
  have hsame : (s.choosing d).decSt = s.decSt := rfl
  cases hd : s.decSt <;> simp only [timerPhase, hsame, hd]
  case idle => exact h.agree
  case swallow =>
    rw [hchar (.inr hd)]
    exact rel_ite (fun _ => enterSettle_agree h t) (fun _ => h.agree)
  case settle =>
    rw [hsettle hd]
    exact rel_ite (fun _ => (h.finish .frameOk).agree) (fun _ => h.agree)
  all_goals
    rw [hchar (.inl (by simp [reading, hd]))]
    exact rel_ite (fun _ => (h.finish .timeout).agree) (fun _ => h.agree)

theorem advanceTime_agree (h : d.Fits s) (t : Nat) :
    AgreeLive (advanceTime t s) (advanceTime t (s.choosing d)) := timerPhase_agree (h.setTime t) t

/-! ### Commands -/

theorem execValPush_agree (h : d.Fits s) (c : Byte) :
    SameOutcome AgreeLive (execValPush c s) (execValPush c (s.choosing d)) := by
  refine rel_ite (fun _ => (h.refuse .busy).next) fun _ =>
    rel_ite (fun _ => (h.refuse .badOperand).next) fun _ =>
    rel_ite (fun _ => (h.refuse .bufFull).next) fun _ => ?_
  have hpush : { d with vbuf := d.vbuf.write s.vlen c }.Fits
      { s with vbuf := s.vbuf.write s.vlen c, vlen := s.vlen + 1 } :=
    { h with vbuf := Memory.read_write_congr c h.vbuf }
  by_cases hlt : s.vlen < s.params.valueMax
  · simp only [State.choosing, writeBuf_ok hlt]
    exact (hpush.accept 0).next
  · simp [State.choosing, writeBuf, hlt, SameOutcome]

theorem execPbufRd_agree (h : d.Fits s) (k : Byte) :
    SameOutcome AgreeLive (execPbufRd k s) (execPbufRd k (s.choosing d)) := by
  refine rel_ite (fun _ => (h.refuse .indexRange).next) fun hk => ?_
  have hlt : k.toNat < s.plen := Nat.lt_of_not_le hk
  have hread : readBuf s.params.payloadCap d.pbuf k.toNat = readBuf s.params.payloadCap s.pbuf k.toNat :=
    readBuf_congr (h.pbuf _ hlt)
  simp only [State.choosing, hread]
  cases readBuf s.params.payloadCap s.pbuf k.toNat with
  | ok b => exact (h.accept b).next
  | error f => rfl

/-- No command observes it. -/
theorem exec_agree (h : d.Fits s) (i : Instr) :
    SameOutcome AgreeLive (exec i s) (exec i (s.choosing d)) := by
  have hbusy := (h.refuse .busy).next
  have hbad := (h.refuse .badOperand).next
  cases i with
  | nop => exact (h.accept 0).next
  | accReset => exact rel_ite (fun _ => hbusy) fun _ => ((h.setAcc 0).accept 0).next
  | accAdd b => exact rel_ite (fun _ => hbusy) fun _ => ((h.setAcc (accAdd s.acc b)).accept 0).next
  | accRead => exact (h.accept (ckChar s.acc)).next
  | addrWr n =>
    exact rel_ite (fun _ => hbusy) fun _ => rel_ite (fun _ => hbad) fun _ =>
      ((h.setAddr (n.setWidth 7)).accept 0).next
  | addrRd => exact (h.accept (s.addr.setWidth 8)).next
  | valClr => exact rel_ite (fun _ => hbusy) fun _ => (h.clearValue.accept 0).next
  | valPush c => exact execValPush_agree h c
  | encSend w c =>
    have hsend : { d with encW := w, encCmd := c }.Fits
        { s with encW := w, encCmd := c, acc := 0, encResult := .none, encPh := .body, encI := 0 } :=
      { h with encW := fun _ => rfl, encCmd := fun _ => rfl }
    exact rel_ite (fun _ => hbusy) fun _ => rel_ite (fun _ => hbad) fun _ => (hsend.accept 0).next
  | decStart =>
    have hstart : { d with lastT := s.tPrev }.Fits
        { s with decSt := .seek, junk := 0, plen := 0, decResult := .none, lastT := s.tPrev } :=
      { h with ah := by simp, lastT := fun _ => rfl, setT0 := by simp, pbuf := by simp }
    exact rel_ite (fun _ => hbusy) fun _ => (hstart.accept 0).next
  | statRd => exact (h.acceptQuietly (status s)).next
  | plenRd => exact (h.accept (BitVec.ofNat 8 s.plen)).next
  | pbufRd k => exact execPbufRd_agree h k
  | errcRd => exact (h.acceptQuietly (causeCode s.cmdCause)).next

theorem execWord_agree (h : d.Fits s) (w : Word) :
    SameOutcome AgreeLive (execWord w s) (execWord w (s.choosing d)) := by
  unfold execWord
  cases decode w with
  | ok i => exact exec_agree h i
  | error e => exact (h.refuse .illegal).next

/-! ### The transmit port -/

/-- An index past the five fixed bytes of the body (R131). -/
theorem bodyHead_getElem?_none {a : BitVec 7} {w : Bool} {c : Byte} {k : Nat} :
    (bodyHead a w c)[k]? = none ↔ 5 ≤ k := by simp [bodyHead, addrDigits]

theorem bodyByte_choosing (h : d.Fits s) (hp : s.encPh = .body) (k : Nat) :
    bodyByte (s.choosing d) k = bodyByte s k := by
  simp only [bodyByte, bodyLength, State.choosing, h.encW hp, h.encCmd hp]
  split
  · rfl
  · next hk =>
    have hge := bodyHead_getElem?_none.mp hk
    exact rel_ite (fun hlt => readBuf_congr (h.vbuf _ (by omega))) fun _ => rfl

/-- ENC_W, ENC_CMD and the value are on the port in BODY only (R40). -/
theorem txByte_choosing (h : d.Fits s) : txByte (s.choosing d) = txByte s := by
  have hsame : (s.choosing d).encPh = s.encPh := rfl
  cases hp : s.encPh <;> simp only [txByte, hsame, hp]
  case body => exact congrArg _ (bodyByte_choosing h hp s.encI)
  all_goals rfl

theorem advanceFrame_agree (h : d.Fits s) (b : Byte) :
    AgreeLive (advanceFrame b s) (advanceFrame b (s.choosing d)) := by
  have hsame : (s.choosing d).encPh = s.encPh := rfl
  cases hp : s.encPh <;> simp only [advanceFrame, hsame, hp]
  case idle => exact h.agree
  case body =>
    have hacc := h.setAcc (accAdd s.acc b)
    exact rel_ite (fun _ => (hacc.moveEnc (.inr (by decide)) 0).agree)
      (fun _ => (hacc.moveEnc (.inl hp.symm) (s.encI + 1)).agree)
  case ck => exact (h.moveEnc (p := .term) (.inr (by decide)) 0).agree
  case term =>
    have hend := h.clearValue.moveEnc (p := .idle) (.inr (by decide)) 0
    exact rel_ite (fun _ => Unspecified.Fits.agree { hend with })
      (fun _ => (h.moveEnc (.inl hp.symm) (s.encI + 1)).agree)

theorem txAckOk_agree (h : d.Fits s) : SameOutcome AgreeLive (txAckOk s) (txAckOk (s.choosing d)) := by
  unfold txAckOk
  rw [txByte_choosing h]
  rcases txByte s with f | _ | b
  · rfl
  · rfl
  · exact advanceFrame_agree (h.withQueues s.rxQueue (s.txSent ++ [b]) s.inputs) b

theorem txAckFail_agree (h : d.Fits s) :
    SameOutcome AgreeLive (txAckFail s) (txAckFail (s.choosing d)) := by
  have hend := h.clearValue.moveEnc (p := .idle) (.inr (by decide)) 0
  have hfail : d.Fits (failFrame s) := { hend with }
  exact rel_ite (fun _ => hfail.next) (fun _ => rfl)

/-! ### The receive port -/

theorem rxSeek_agree (h : d.Fits s) (hd : s.decSt = .seek) (b : Byte) :
    AgreeLive (rxSeek b s) (rxSeek b (s.choosing d)) := by
  have htaken := h.receive s.rxQueue.tail s.acc
  have hjunk : { d with lastT := s.tPrev }.Fits
      { s with rxQueue := s.rxQueue.tail, lastT := s.tPrev, junk := s.junk + 1 } := { htaken with }
  have hstart := h.receive s.rxQueue.tail (accAdd 0 b)
  refine rel_ite (fun _ => (hstart.moveDec ?_ (.inl rfl)).agree) fun _ =>
    rel_ite (fun _ => (hjunk.finish .junkOverflow).agree) fun _ => hjunk.agree
  simp [reading, hd]

theorem rxAddrHi_agree (h : d.Fits s) (b : Byte) :
    AgreeLive (rxAddrHi b s) (rxAddrHi b (s.choosing d)) := by
  have hnext : { d with ah := b, lastT := s.tPrev }.Fits (rxAddrHi b s) :=
    { h.receive s.rxQueue.tail (accAdd s.acc b) with
      ah := fun _ => rfl
      lastT := fun _ => rfl
      setT0 := by simp [rxAddrHi] }
  exact hnext.agree

/-- ADDR_LO reads AH, which both states hold alike there (R30). -/
theorem rxAddrLo_agree (h : d.Fits s) (hd : s.decSt = .addrLo) (b : Byte) :
    AgreeLive (rxAddrLo b s) (rxAddrLo b (s.choosing d)) := by
  obtain ⟨ah, _, _, _, _, _, _⟩ := d
  obtain rfl : ah = s.ah := h.ah hd
  have hadded := h.receive s.rxQueue.tail (accAdd s.acc b)
  refine rel_ite (fun _ => (hadded.moveDec ?_ (.inr (.inl rfl))).agree)
    fun _ => (hadded.finish .addressMismatch).agree
  simp [reading, hd]

theorem rxPayloadByte_agree (h : d.Fits s) (b : Byte) :
    SameOutcome AgreeLive (rxPayloadByte b s) (rxPayloadByte b (s.choosing d)) := by
  have hadded := h.receive s.rxQueue.tail (accAdd s.acc b)
  have hstored : { d with lastT := s.tPrev, pbuf := d.pbuf.write s.plen b }.Fits
      { s with
        rxQueue := s.rxQueue.tail, acc := accAdd s.acc b, lastT := s.tPrev
        pbuf := s.pbuf.write s.plen b, plen := s.plen + 1 } :=
    { hadded with pbuf := Memory.read_write_congr b h.pbuf }
  by_cases hlt : s.plen < s.params.payloadCap
  · simp only [rxPayloadByte, State.choosing, writeBuf_ok hlt]
    exact rel_ite (R := AgreeLive) (fun _ => (hstored.finish .malformedFrame).agree)
      (fun _ => hstored.agree)
  · simp [rxPayloadByte, State.choosing, writeBuf, hlt, SameOutcome]

theorem rxChecksum_agree (h : d.Fits s) (hd : s.decSt = .payload) (b : Byte) :
    AgreeLive (rxChecksum b s) (rxChecksum b (s.choosing d)) := by
  have htaken := h.receive s.rxQueue.tail s.acc
  refine rel_ite (fun _ => (htaken.moveDec ?_ (.inr (.inr rfl))).agree)
    fun _ => ((h.withQueues s.rxQueue.tail s.txSent s.inputs).finish .checksumError).agree
  simp [reading, hd]

theorem rxSwallow_agree (h : d.Fits s) (b : Byte) :
    AgreeLive (rxSwallow b s) (rxSwallow b (s.choosing d)) :=
  rel_ite (fun _ => (h.receive s.rxQueue.tail s.acc).agree) (fun _ => enterSettle_agree h s.tPrev)

theorem decodeByte_agree (h : d.Fits s) (b : Byte) :
    SameOutcome AgreeLive (decodeByte b s) (decodeByte b (s.choosing d)) := by
  have hsame : (s.choosing d).decSt = s.decSt := rfl
  cases hd : s.decSt <;> simp only [decodeByte, hsame, hd]
  case idle | settle => exact h.next
  case seek => exact rxSeek_agree h hd b
  case addrHi => exact rxAddrHi_agree h b
  case addrLo => exact rxAddrLo_agree h hd b
  case payload =>
    exact rel_ite (fun _ => rxChecksum_agree h hd b) (fun _ => rxPayloadByte_agree h b)
  case swallow => exact rxSwallow_agree h b

theorem rxNone_agree (h : d.Fits s) : SameOutcome AgreeLive (rxNone s) (rxNone (s.choosing d)) :=
  rel_ite (fun _ => rfl) fun _ =>
    rel_ite (fun _ => enterSettle_agree h s.tPrev) (fun _ => h.next)

/-! ### Every step -/

/-- With no input the block waits (R241). -/
theorem step_nil {s : State} (hi : s.inputs = []) : step s = .next s := by
  simp [step, nextInput, hi]

/-- The event's own rule (R91 step 4) does not observe it. -/
theorem handle_agree {s u : State} (h : AgreeLive s u) (e : Event) :
    SameOutcome AgreeLive (handle e s) (handle e u) := by
  obtain ⟨d, rfl, hd⟩ := h.exists_fits
  cases e with
  | cmd w => exact execWord_agree hd w
  | txAck ok =>
    cases ok with
    | true => exact txAckOk_agree hd
    | false => exact txAckFail_agree hd
  | rxOffer b => exact rel_ite (fun _ => decodeByte_agree hd b) (fun _ => rfl)
  | rxNone => exact rxNone_agree hd
  | tick => exact h
  | reset => exact AgreeLive.refl (hardReset s)

/-- Settles O55: the arrival of bytes, time and the event's own rule (R91), each on both states. -/
theorem unspecifiedStateIsNeverObserved : Obligations.UnspecifiedStateIsNeverObserved := by
  intro s u h
  obtain ⟨d, rfl, hd⟩ := h.exists_fits
  cases hi : s.inputs with
  | nil =>
    rw [step_nil hi, step_nil (s := s.choosing d) hi]
    exact h
  | cons x rest =>
    have hq := hd.withQueues (s.rxQueue ++ x.arrived) s.txSent rest
    rw [step_cons hi, step_cons (s := s.choosing d) hi]
    exact rel_ite (fun _ => AgreeLive.refl _) fun _ => rel_ite (fun _ => rfl) fun _ =>
      handle_agree (advanceTime_agree hq x.time) x.event

end Sys2Proof.Machine
end

section
/-! The two ports: what the transmit port offers in each phase (spec/10_state.md R40), and which bytes the
receive port takes (R41). -/

namespace Sys2Proof.Machine

variable {s t : State}

/-! ### The transmit port -/

/-- A list of entries that all hold a value, by index. -/
theorem getElem?_filterMap_range {f : Nat → Option Byte} {n i : Nat}
    (hf : ∀ j < n, ∃ b, f j = some b) (hi : i < n) : ((List.range n).filterMap f)[i]? = f i := by
  have hmap : (List.range n).filterMap f = (List.range n).map fun j => (f j).getD 0 := by
    rw [← List.filterMap_eq_map]
    refine List.filterMap_congr fun j hj => ?_
    obtain ⟨b, hb⟩ := hf j (List.mem_range.mp hj)
    simp [hb]
  obtain ⟨b, hb⟩ := hf i hi
  simp [hmap, hi, hb]

/-- Each character of the value stands at its own index (R25). -/
theorem valueBytes_getElem? (h : StateInv s) {i : Nat} (hi : i < s.vlen) :
    (valueBytes s)[i]? = s.vbuf.read i :=
  getElem?_filterMap_range
    (fun j hj => by obtain ⟨b, hb, _⟩ := h.vbuf_digits j hj; exact ⟨b, hb⟩) hi

/-- Inside the body the port's byte is the request's, and reading it does not fault (R131). -/
theorem bodyByte_eq_requestBody (h : StateInv s) {k : Nat} (hk : k < bodyLength s) :
    ∃ b, (requestBody s)[k]? = some b ∧ bodyByte s k = .ok b := by
  have hlen : (bodyHead s.addr s.encW s.encCmd).length = 5 := rfl
  unfold requestBody bodyByte
  by_cases hfixed : k < 5
  · have hget := List.getElem?_eq_getElem (hlen ▸ hfixed)
    exact ⟨_, by rw [List.getElem?_append_left (hlen ▸ hfixed), hget], by rw [hget]⟩
  · have hvalue : k - 5 < s.vlen := by unfold bodyLength at hk; omega
    obtain ⟨b, hread, _⟩ := h.vbuf_digits (k - 5) hvalue
    have hge : 5 ≤ k := by omega
    refine ⟨b, ?_, ?_⟩
    · rw [List.getElem?_append_right (hlen ▸ hge), hlen, valueBytes_getElem? h hvalue, hread]
    · rw [bodyHead_getElem?_none.mpr hge]
      simp only [hk, if_true]
      exact readBuf_ok (hvalue.trans_le h.vlen_le) hread

theorem txByte_idle (hp : s.encPh = .idle) : txByte s = .ok none := by simp [txByte, hp]

theorem txByte_body (h : StateInv s) (hp : s.encPh = .body) :
    ∃ b, (requestBody s)[s.encI]? = some b ∧ txByte s = .ok (some b) := by
  obtain ⟨b, hb, hok⟩ := bodyByte_eq_requestBody h (h.encI_body hp)
  exact ⟨b, hb, by simp [txByte, hp, hok, Except.map]⟩

theorem txByte_ck (hp : s.encPh = .ck) : txByte s = .ok (some (ckChar s.acc)) := by simp [txByte, hp]

theorem txByte_term (h : StateInv s) (hp : s.encPh = .term) :
    ∃ b, (termBytes s.params.txTerm)[s.encI]? = some b ∧ txByte s = .ok (some b) := by
  have hb := List.getElem?_eq_getElem (h.encI_term hp)
  exact ⟨_, hb, by simp only [txByte, hp, hb]⟩

/-- While the encoder runs the port offers a byte (R40). -/
theorem txByte_busy (h : StateInv s) (hb : s.encPh ≠ .idle) : ∃ b, txByte s = .ok (some b) := by
  cases hp : s.encPh with
  | idle => exact absurd hp hb
  | body => obtain ⟨b, _, e⟩ := txByte_body h hp; exact ⟨b, e⟩
  | ck => exact ⟨_, txByte_ck hp⟩
  | term => obtain ⟨b, _, e⟩ := txByte_term h hp; exact ⟨b, e⟩

/-- Settles O23, phase by phase. -/
theorem transmitPortOutput : Obligations.TransmitPortOutput := fun s h =>
  ⟨txByte_idle, txByte_body h, fun hp => ⟨_, ckChar_toNat s.acc, txByte_ck hp⟩, txByte_term h⟩

/-! ### The receive port -/

/-- `isNewline` in the terms of R84. -/
theorem isNewline_iff {b : Byte} : isNewline b = true ↔ b = 0x0D ∨ b = 0x0A := by
  simp [isNewline, asciiCR, asciiLF]

/-- The queue loses its head at the bytes `rxTakes` names, and stays as it is at every other (R41). -/
theorem decodeByte_rxQueue {b : Byte} (h : decodeByte b s = .next t) :
    t.rxQueue = if rxTakes s b then s.rxQueue.tail else s.rxQueue := by
  rcases decodeByte_next h with
    ⟨hd, rfl⟩ | ⟨hd, rfl⟩ | ⟨hd, rfl⟩ | ⟨hd, rfl⟩ | ⟨hd, _, rfl⟩ | ⟨hd, _, hp⟩ | ⟨hd, rfl⟩
  case inl => rcases hd with hd | hd <;> simp [rxTakes, hd]
  all_goals simp only [rxTakes, hd, if_true]
  case inr.inl => rcases rxSeek_cases b s with ⟨_, e⟩ | ⟨_, _, e⟩ | ⟨_, _, e⟩ <;> rw [e]
  case inr.inr.inl => rfl
  case inr.inr.inr.inl => rcases rxAddrLo_cases b s with ⟨_, e⟩ | ⟨_, e⟩ <;> rw [e]
  case inr.inr.inr.inr.inl => rcases rxChecksum_cases b s with ⟨_, e⟩ | ⟨_, e⟩ <;> rw [e]
  case inr.inr.inr.inr.inr.inl =>
    rcases rxPayloadByte_cases b s with ⟨_, _, e⟩ | ⟨_, _, e⟩ | ⟨_, e⟩ <;> rw [e] at hp <;> cases hp <;> rfl
  case inr.inr.inr.inr.inr.inr =>
    rcases rxSwallow_cases b s with ⟨hn, e⟩ | ⟨hn, e⟩ <;> simp [e, hn]

theorem rxTakes_iff {b : Byte} :
    rxTakes s b = true ↔ reading s = true ∨ (s.decSt = .swallow ∧ (b = 0x0D ∨ b = 0x0A)) := by
  rw [← isNewline_iff]
  cases hd : s.decSt <;> simp [rxTakes, reading, hd]

/-- Settles O34: `rxTakes` is the condition R41 writes out. -/
theorem receivePortReadiness : Obligations.ReceivePortReadiness := by
  refine ⟨fun s b hd hq => ?_, fun s t b h => ?_⟩
  · rcases hd with hd | hd <;> simp [handle, rxOffer, decodeByte, hd, hq]
  · have hqueue := decodeByte_rxQueue (rxOffer_next h).2
    rw [← rxTakes_iff]
    exact ⟨fun htakes => by rw [hqueue, if_pos htakes], fun hleaves => by rw [hqueue, if_neg hleaves]⟩

end Sys2Proof.Machine
end

section
/-! The environment's contract (spec/60_exceptions.md R228) decides whether a step has a next state: under
the invariant nothing in the block faults, and the model refuses only what breaks the contract. -/

namespace Sys2Proof.Machine

variable {s : State}

/-- A guard that refuses the command answers a next state, and so only the rest has to be shown. -/
theorem exists_next_ite {c : Prop} [Decidable c] {a : State} {o : Host.Outcome State Fault Refusal}
    (ho : ¬c → ∃ t, o = .next t) : ∃ t, (if c then .next a else o) = .next t := by
  split
  · exact ⟨a, rfl⟩
  · next hc => exact ho hc

/-- Every command has a next state: what it reads was written, and what it writes fits (R44, R50). -/
theorem exec_progress (h : StateInv s) (i : Instr) : ∃ t, exec i s = .next t := by
  cases i with
  | accReset | accAdd _ | valClr | decStart => exact exists_next_ite fun _ => ⟨_, rfl⟩
  | addrWr _ | encSend _ _ => exact exists_next_ite fun _ => exists_next_ite fun _ => ⟨_, rfl⟩
  | valPush c =>
    refine exists_next_ite fun _ => exists_next_ite fun _ => exists_next_ite fun hfull => ?_
    rw [writeBuf_ok (Nat.lt_of_le_of_ne h.vlen_le hfull)]
    exact ⟨_, rfl⟩
  | pbufRd k =>
    refine exists_next_ite fun hk => ?_
    have hlt : k.toNat < s.plen := Nat.lt_of_not_le hk
    obtain ⟨b, hread, _⟩ := h.pbuf_written _ hlt
    rw [readBuf_ok (hlt.trans_le h.plen_le) hread]
    exact ⟨_, rfl⟩
  | nop | accRead | addrRd | statRd | plenRd | errcRd => exact ⟨_, rfl⟩

theorem execWord_progress (h : StateInv s) (w : Word) : ∃ t, execWord w s = .next t := by
  unfold execWord
  cases decode w with
  | ok i => exact exec_progress h i
  | error e => exact ⟨_, rfl⟩

/-- The decoder has a next state at every byte: in PAYLOAD there is room for it (R166). -/
theorem decodeByte_progress (h : StateInv s) (b : Byte) : ∃ t, decodeByte b s = .next t := by
  cases hd : s.decSt <;> simp only [decodeByte, hd]
  case payload =>
    have hlt := h.plen_lt (.inl hd)
    split
    · exact ⟨_, rfl⟩
    · rcases rxPayloadByte_cases b s with ⟨_, _, e⟩ | ⟨_, _, e⟩ | ⟨hle, _⟩
      · exact ⟨_, e⟩
      · exact ⟨_, e⟩
      · omega
  all_goals exact ⟨_, rfl⟩

/-- The part of the contract that is about the ports, not about time (R92, R65, R228). -/
def portReady (e : Event) (s : State) : Prop :=
  match e with
  | .txAck _ => encBusy s = true
  | .rxOffer b => s.rxQueue.head? = some b
  | .rxNone => s.rxQueue = []
  | .cmd _ => True
  | .tick => True
  | .reset => True

/-- The contract is time that does not fall and a port that is ready, RESET excepted. -/
theorem contractHolds_iff {x : Input} : contractHolds x s ↔
    x.event = .reset ∨ s.tPrev ≤ x.time ∧ portReady x.event (arrive x.arrived s) := by
  cases hx : x.event <;> simp [contractHolds, portReady, hx, encBusy]

theorem txAckOk_offered {b : Byte} (hb : txByte s = .ok (some b)) :
    txAckOk s = .next (advanceFrame b { s with txSent := s.txSent ++ [b] }) := by
  simp only [txAckOk, hb]

theorem txAckOk_idle (hp : s.encPh = .idle) : txAckOk s = .refused .ackWithoutByte := by
  simp only [txAckOk, txByte_idle hp]

/-- An event at a ready port has a next state. -/
theorem handle_progress (h : StateInv s) {e : Event} (hr : portReady e s) :
    ∃ t, handle e s = .next t := by
  cases e with
  | cmd w => exact execWord_progress h w
  | txAck ok =>
    cases ok with
    | true =>
      obtain ⟨b, hb⟩ := txByte_busy h (encBusy_eq_true.mp hr)
      exact ⟨_, txAckOk_offered hb⟩
    | false => exact ⟨_, if_pos hr⟩
  | rxOffer b =>
    obtain ⟨t, ht⟩ := decodeByte_progress h b
    exact ⟨t, (if_pos hr).trans ht⟩
  | rxNone =>
    have hempty : ¬ s.rxQueue ≠ [] := not_not.mpr hr
    by_cases hd : s.decSt = .swallow
    · exact ⟨_, (if_neg hempty).trans (if_pos hd)⟩
    · exact ⟨_, (if_neg hempty).trans (if_neg hd)⟩
  | tick => exact ⟨s, rfl⟩
  | reset => exact ⟨_, rfl⟩

/-- An event at a port that is not ready is refused by the model (entries 7, 15). -/
theorem handle_refused {e : Event} (hr : ¬portReady e s) : ∃ r, handle e s = .refused r := by
  cases e with
  | txAck ok =>
    have hidle : s.encPh = .idle := by simpa [portReady, encBusy] using hr
    cases ok with
    | true => exact ⟨_, txAckOk_idle hidle⟩
    | false => exact ⟨_, if_neg hr⟩
  | rxOffer b => exact ⟨_, if_neg hr⟩
  | rxNone => exact ⟨_, if_pos hr⟩
  | cmd _ | tick | reset => exact absurd trivial hr

/-- With the contract kept a step has a next state, and otherwise it is refused. -/
theorem step_decided (h : StateInv s) {x : Input} {rest : List Input} (hi : s.inputs = x :: rest) :
    (contractHolds x s ∧ ∃ t, step s = .next t) ∨ (¬contractHolds x s ∧ ∃ r, step s = .refused r) := by
  rw [step_cons hi, contractHolds_iff]
  unfold processInput
  by_cases hreset : x.event = .reset
  · exact .inl ⟨.inl hreset, _, if_pos hreset⟩
  rw [if_neg hreset]
  by_cases ht : s.tPrev ≤ x.time
  · have hnow : ¬x.time < s.tPrev := Nat.not_lt.mpr ht
    have hinv := (h.withQueues (s.rxQueue ++ x.arrived) s.txSent rest).advanceTime ht
    rw [if_neg hnow]
    have hport : portReady x.event (advanceTime x.time (arrive x.arrived { s with inputs := rest })) ↔
        portReady x.event (arrive x.arrived s) := by
      cases x.event <;> simp [portReady, encBusy]
    by_cases hr : portReady x.event (arrive x.arrived s)
    · exact .inl ⟨.inr ⟨ht, hr⟩, handle_progress hinv (hport.mpr hr)⟩
    · exact .inr ⟨by simp [hreset, hr], handle_refused (mt hport.mp hr)⟩
  · exact .inr ⟨by simp [hreset, ht], _, if_pos (Nat.lt_of_not_le ht)⟩

/-- Settles O54: a step is decided one way or the other, and neither is a fault. -/
theorem contractDecidesProgress : Obligations.ContractDecidesProgress := by
  intro s x rest h hi
  rcases step_decided h hi with ⟨hc, t, e⟩ | ⟨hc, r, e⟩ <;> simp [e, hc]

end Sys2Proof.Machine
end

section
/-! ADDR through every part of a step (spec/10_state.md R24): only ADDR_WR writes it. -/

namespace Sys2Proof.Machine

/-- A command other than ADDR_WR leaves ADDR alone, and ADDR_WR writes its operand or nothing. -/
theorem exec_addr {i : Instr} {s t : State} (h : exec i s = .next t) :
    t.addr = s.addr ∨ ∃ n, i = .addrWr n ∧ t.addr.toNat = n.toNat := by
  cases i with
  | addrWr n =>
    rcases execAddrWr_next h with ⟨_, rfl⟩ | ⟨_, _, rfl⟩ | ⟨_, hn, rfl⟩
    · exact .inl rfl
    · exact .inl rfl
    · exact .inr ⟨n, rfl, setWidth_address hn⟩
  | nop => cases h; exact .inl rfl
  | accReset => rcases execAccReset_next h with ⟨_, rfl⟩ | ⟨_, rfl⟩ <;> exact .inl rfl
  | accAdd d => rcases execAccAdd_next h with ⟨_, rfl⟩ | ⟨_, rfl⟩ <;> exact .inl rfl
  | accRead => cases h; exact .inl rfl
  | addrRd => cases h; exact .inl rfl
  | valClr => rcases execValClr_next h with ⟨_, rfl⟩ | ⟨_, rfl⟩ <;> exact .inl rfl
  | valPush c =>
    rcases execValPush_next h with ⟨_, rfl⟩ | ⟨_, _, rfl⟩ | ⟨_, _, _, rfl⟩ | ⟨_, _, _, rfl⟩ <;>
      exact .inl rfl
  | encSend w c =>
    rcases execEncSend_next h with ⟨_, rfl⟩ | ⟨_, _, rfl⟩ | ⟨_, _, rfl⟩ <;> exact .inl rfl
  | decStart => rcases execDecStart_next h with ⟨_, rfl⟩ | ⟨_, rfl⟩ <;> exact .inl rfl
  | statRd => cases h; exact .inl rfl
  | plenRd => cases h; exact .inl rfl
  | pbufRd k => rcases execPbufRd_next h with ⟨_, rfl⟩ | ⟨_, _, _, rfl⟩ <;> exact .inl rfl
  | errcRd => cases h; exact .inl rfl

@[simp] theorem advanceFrame_addr (b : Byte) (s : State) : (advanceFrame b s).addr = s.addr := by
  rcases advanceFrame_cases b s with
    ⟨_, e⟩ | ⟨_, _, e⟩ | ⟨_, _, e⟩ | ⟨_, e⟩ | ⟨_, _, e⟩ | ⟨_, _, e⟩ <;> rw [e]

/-- The decoder compares ADDR and never writes it (R155). -/
theorem decodeByte_addr {b : Byte} {s t : State} (h : decodeByte b s = .next t) : t.addr = s.addr := by
  rcases decodeByte_next h with
    ⟨_, rfl⟩ | ⟨_, rfl⟩ | ⟨_, rfl⟩ | ⟨_, rfl⟩ | ⟨_, _, rfl⟩ | ⟨_, _, hp⟩ | ⟨_, rfl⟩
  case inl => rfl
  case inr.inl => rcases rxSeek_cases b s with ⟨_, e⟩ | ⟨_, _, e⟩ | ⟨_, _, e⟩ <;> rw [e]
  case inr.inr.inl => rfl
  case inr.inr.inr.inl => rcases rxAddrLo_cases b s with ⟨_, e⟩ | ⟨_, e⟩ <;> rw [e]
  case inr.inr.inr.inr.inl => rcases rxChecksum_cases b s with ⟨_, e⟩ | ⟨_, e⟩ <;> rw [e]
  case inr.inr.inr.inr.inr.inl =>
    rcases rxPayloadByte_cases b s with ⟨_, _, e⟩ | ⟨_, _, e⟩ | ⟨_, e⟩ <;> rw [e] at hp <;> cases hp <;> rfl
  case inr.inr.inr.inr.inr.inr => rcases rxSwallow_cases b s with ⟨_, e⟩ | ⟨_, e⟩ <;> simp [e]

/-- An event's own rule (R91 step 4) writes ADDR at RESET and ADDR_WR only. -/
theorem handle_addr {e : Event} {s t : State} (he : e ≠ .reset) (h : handle e s = .next t) :
    t.addr = s.addr ∨ ∃ w n, e = .cmd w ∧ decode w = .ok (.addrWr n) ∧ t.addr.toNat = n.toNat := by
  cases e with
  | cmd w =>
    rcases execWord_next h with ⟨i, hw, hi⟩ | ⟨_, _, rfl⟩
    · rcases exec_addr hi with hsame | ⟨n, rfl, hn⟩
      · exact .inl hsame
      · exact .inr ⟨w, n, rfl, hw, hn⟩
    · exact .inl rfl
  | txAck ok =>
    cases ok with
    | true =>
      obtain ⟨b, _, rfl⟩ := txAckOk_next h
      exact .inl (advanceFrame_addr b _)
    | false =>
      obtain ⟨_, rfl⟩ := txAckFail_next h
      exact .inl rfl
  | rxOffer b => exact .inl (decodeByte_addr (rxOffer_next h).2)
  | rxNone =>
    obtain ⟨_, ⟨_, rfl⟩ | ⟨_, rfl⟩⟩ := rxNone_next h
    · exact .inl (enterSettle_addr _ s)
    · exact .inl rfl
  | tick => cases h; exact .inl rfl
  | reset => exact absurd rfl he

/-- Settles O57: the arrival of bytes and the timer phase leave ADDR alone, and so does every event's
own rule but the two. -/
theorem onlyAddrWrAndResetWriteAddr : Obligations.OnlyAddrWrAndResetWriteAddr := by
  intro s t h hne
  rcases step_cases h with ⟨_, rfl⟩ | ⟨x, rest, hi, ⟨hreset, _⟩ | ⟨hreset, _, hx⟩⟩
  · exact absurd rfl hne
  · exact ⟨x, rest, hi, .inl hreset⟩
  · rcases handle_addr hreset hx with hsame | hwrite
    · exact absurd (by simpa using hsame) hne
    · exact ⟨x, rest, hi, .inr hwrite⟩

end Sys2Proof.Machine
end

section
/-! The four reads ACC_READ, ADDR_RD, PLEN_RD and PBUF_RD (spec/20_memory.md R57): each writes the command
report only, and none of them looks at it. -/

namespace Sys2Proof.Machine

variable {s t : State}

/-- PBUF_RD at or past PLEN is refused (R171). -/
theorem execPbufRd_refused {k : Byte} (hk : s.plen ≤ k.toNat) :
    execPbufRd k s = .next (refuse .indexRange s) := if_pos hk

/-- PBUF_RD below PLEN answers the byte it reads (R171). -/
theorem execPbufRd_accepted {k b : Byte} (hk : k.toNat < s.plen)
    (hb : readBuf s.params.payloadCap s.pbuf k.toNat = .ok b) :
    execPbufRd k s = .next (accept b s) := by
  simp [execPbufRd, Nat.not_le.mpr hk, hb]

/-- PBUF_RD finds PLEN and PBUF as it left them, and so it answers the same again. -/
theorem execPbufRd_repeats {k : Byte} (h : execPbufRd k s = .next t) :
    ((∃ r, t = accept r s) ∨ ∃ c, t = refuse c s) ∧ execPbufRd k t = .next t := by
  rcases execPbufRd_next h with ⟨hk, rfl⟩ | ⟨hk, b, hb, rfl⟩
  · exact ⟨.inr ⟨_, rfl⟩, execPbufRd_refused (s := refuse .indexRange s) hk⟩
  · exact ⟨.inl ⟨b, rfl⟩, execPbufRd_accepted (s := accept b s) hk hb⟩

/-- A read accepts or refuses with no other effect, and run again it changes nothing any more. -/
theorem exec_read_repeats {i : Instr}
    (hi : i = .accRead ∨ i = .addrRd ∨ i = .plenRd ∨ ∃ k, i = .pbufRd k) (h : exec i s = .next t) :
    ((∃ r, t = accept r s) ∨ ∃ c, t = refuse c s) ∧ exec i t = .next t := by
  rcases hi with rfl | rfl | rfl | ⟨k, rfl⟩
  case inr.inr.inr => exact execPbufRd_repeats h
  all_goals cases h; exact ⟨.inl ⟨_, rfl⟩, rfl⟩

/-- Settles O48: accepted or refused, only the command report is written, and the second run ends in the
very state the first one left. -/
theorem readsHaveNoOtherEffect : Obligations.ReadsHaveNoOtherEffect := by
  intro i s t hi h
  obtain ⟨⟨r, rfl⟩ | ⟨c, rfl⟩, hagain⟩ := exec_read_repeats hi h
  · exact ⟨rfl, _, hagain, rfl⟩
  · exact ⟨rfl, _, hagain, rfl⟩

end Sys2Proof.Machine
end

section
/-! The transport's queues (spec/20_memory.md R65, R66) and the inputs to come through every part of a
step. -/

namespace Sys2Proof.Machine

variable {s t : State}

/-- What one event may do to the transport beside the block: the inputs to come stay, the receive queue
loses at most the head that was offered (R65), and the accepted bytes grow at most by the byte on the
transmit port (R66). -/
structure FifoStep (e : Event) (s t : State) : Prop where
  inputs : t.inputs = s.inputs
  rxQueue : t.rxQueue = s.rxQueue ∨
    (t.rxQueue = s.rxQueue.tail ∧ ∃ b, e = .rxOffer b ∧ s.rxQueue.head? = some b)
  txSent : t.txSent = s.txSent ∨
    ∃ b, e = .txAck true ∧ txByte s = .ok (some b) ∧ t.txSent = s.txSent ++ [b]

/-- The transport's part of the state: both queues and the inputs to come. -/
def transport (s : State) : List Byte × List Byte × List Input := (s.rxQueue, s.txSent, s.inputs)

theorem transport_eq_iff : transport t = transport s ↔
    t.rxQueue = s.rxQueue ∧ t.txSent = s.txSent ∧ t.inputs = s.inputs := by
  simp [transport]

/-- Any event may leave the transport as it is. -/
theorem FifoStep.of_transport_eq {e : Event} (h : transport t = transport s) : FifoStep e s t := by
  obtain ⟨hrx, htx, hin⟩ := transport_eq_iff.mp h
  exact ⟨hin, .inl hrx, .inl htx⟩

/-- No command touches the transport. -/
theorem exec_transport {i : Instr} (h : exec i s = .next t) : transport t = transport s := by
  cases i with
  | nop | accRead | addrRd | statRd | plenRd | errcRd => cases h; rfl
  | accReset => rcases execAccReset_next h with ⟨_, rfl⟩ | ⟨_, rfl⟩ <;> rfl
  | accAdd d => rcases execAccAdd_next h with ⟨_, rfl⟩ | ⟨_, rfl⟩ <;> rfl
  | addrWr n => rcases execAddrWr_next h with ⟨_, rfl⟩ | ⟨_, _, rfl⟩ | ⟨_, _, rfl⟩ <;> rfl
  | valClr => rcases execValClr_next h with ⟨_, rfl⟩ | ⟨_, rfl⟩ <;> rfl
  | valPush c =>
    rcases execValPush_next h with ⟨_, rfl⟩ | ⟨_, _, rfl⟩ | ⟨_, _, _, rfl⟩ | ⟨_, _, _, rfl⟩ <;> rfl
  | encSend w c => rcases execEncSend_next h with ⟨_, rfl⟩ | ⟨_, _, rfl⟩ | ⟨_, _, rfl⟩ <;> rfl
  | decStart => rcases execDecStart_next h with ⟨_, rfl⟩ | ⟨_, rfl⟩ <;> rfl
  | pbufRd k => rcases execPbufRd_next h with ⟨_, rfl⟩ | ⟨_, _, _, rfl⟩ <;> rfl

/-- The encoder's advance leaves the transport alone: the byte was appended before it. -/
theorem advanceFrame_transport (b : Byte) (s : State) :
    transport (advanceFrame b s) = transport s := by
  rcases advanceFrame_cases b s with
    ⟨_, e⟩ | ⟨_, _, e⟩ | ⟨_, _, e⟩ | ⟨_, e⟩ | ⟨_, _, e⟩ | ⟨_, _, e⟩ <;> rw [e] <;> rfl

theorem enterSettle_transport (d : Nat) (s : State) : transport (enterSettle d s) = transport s := by
  simp [transport]

/-- Of the transport the decoder touches the receive queue only (R151). -/
theorem decodeByte_txSent_inputs {b : Byte} (h : decodeByte b s = .next t) :
    t.txSent = s.txSent ∧ t.inputs = s.inputs := by
  rcases decodeByte_next h with
    ⟨_, rfl⟩ | ⟨_, rfl⟩ | ⟨_, rfl⟩ | ⟨_, rfl⟩ | ⟨_, _, rfl⟩ | ⟨_, _, hp⟩ | ⟨_, rfl⟩
  case inl => exact ⟨rfl, rfl⟩
  case inr.inl => rcases rxSeek_cases b s with ⟨_, e⟩ | ⟨_, _, e⟩ | ⟨_, _, e⟩ <;> simp [e]
  case inr.inr.inl => exact ⟨rfl, rfl⟩
  case inr.inr.inr.inl => rcases rxAddrLo_cases b s with ⟨_, e⟩ | ⟨_, e⟩ <;> simp [e]
  case inr.inr.inr.inr.inl => rcases rxChecksum_cases b s with ⟨_, e⟩ | ⟨_, e⟩ <;> simp [e]
  case inr.inr.inr.inr.inr.inl =>
    rcases rxPayloadByte_cases b s with ⟨_, _, e⟩ | ⟨_, _, e⟩ | ⟨_, e⟩ <;> rw [e] at hp <;> cases hp <;>
      exact ⟨rfl, rfl⟩
  case inr.inr.inr.inr.inr.inr => rcases rxSwallow_cases b s with ⟨_, e⟩ | ⟨_, e⟩ <;> simp [e]

/-- An offered byte is taken from the head of the queue, or left there (R65, R157). -/
theorem rxOffer_fifo {b : Byte} (h : rxOffer b s = .next t) : FifoStep (.rxOffer b) s t := by
  obtain ⟨hhead, hdec⟩ := rxOffer_next h
  obtain ⟨htx, hin⟩ := decodeByte_txSent_inputs hdec
  have hqueue := decodeByte_rxQueue hdec
  refine ⟨hin, ?_, .inl htx⟩
  split at hqueue
  · exact .inr ⟨hqueue, b, rfl, hhead⟩
  · exact .inl hqueue

/-- The accepted byte is the one on the port before the encoder moves on (R66). -/
theorem txAckOk_fifo (h : txAckOk s = .next t) : FifoStep (.txAck true) s t := by
  obtain ⟨b, hb, rfl⟩ := txAckOk_next h
  obtain ⟨hrx, htx, hin⟩ :=
    transport_eq_iff.mp (advanceFrame_transport b { s with txSent := s.txSent ++ [b] })
  exact ⟨hin, .inl hrx, .inr ⟨b, rfl, hb, htx⟩⟩

/-- Every event's own rule (R91 step 4) keeps the queues first in, first out; RESET leaves the transport
alone (R240). -/
theorem handle_fifo {e : Event} (h : handle e s = .next t) : FifoStep e s t := by
  cases e with
  | cmd w =>
    rcases execWord_next h with ⟨_, _, hi⟩ | ⟨_, _, rfl⟩
    · exact .of_transport_eq (exec_transport hi)
    · exact .of_transport_eq rfl
  | txAck ok =>
    cases ok with
    | true => exact txAckOk_fifo h
    | false =>
      obtain ⟨_, rfl⟩ := txAckFail_next h
      exact .of_transport_eq rfl
  | rxOffer b => exact rxOffer_fifo h
  | rxNone =>
    obtain ⟨_, ⟨_, rfl⟩ | ⟨_, rfl⟩⟩ := rxNone_next h
    · exact .of_transport_eq (enterSettle_transport _ s)
    · exact .of_transport_eq rfl
  | tick | reset => cases h; exact .of_transport_eq rfl

/-- The body being sent is not touched by the arrival of bytes and the timer phase (R131, R160). -/
theorem bodyByte_advanceTime_arrive (d : Nat) (bs : List Byte) (s : State) (k : Nat) :
    bodyByte (advanceTime d (arrive bs s)) k = bodyByte s k := by
  cases hk : (bodyHead s.addr s.encW s.encCmd)[k]? with
  | some b => simp [bodyByte, hk]
  | none => by_cases hlt : k < 5 + s.vlen <;> simp [bodyByte, bodyLength, hk, hlt]

/-- The byte on the transmit port waits through the arrival of bytes and the timer phase (R40, R160). -/
theorem txByte_advanceTime_arrive (d : Nat) (bs : List Byte) (s : State) :
    txByte (advanceTime d (arrive bs s)) = txByte s := by
  cases hp : s.encPh <;> simp [txByte, bodyByte_advanceTime_arrive, hp]

/-- Settles O60: the arrived bytes go to the end of the queue first, time leaves the transport alone, and
the event's own rule is `handle_fifo`. -/
theorem transportQueuesAreFifo : Obligations.TransportQueuesAreFifo := by
  intro s t x rest hi h
  rcases step_cases h with ⟨hnil, _⟩ | ⟨y, rest', hcons, hevent⟩
  · simp [hnil] at hi
  obtain ⟨rfl, rfl⟩ : y = x ∧ rest' = rest := by simpa [hcons] using hi
  rcases hevent with ⟨_, rfl⟩ | ⟨_, _, hx⟩
  · exact ⟨rfl, .inl rfl, .inl rfl⟩
  · obtain ⟨hin, hrx, htx⟩ := handle_fifo hx
    rw [txByte_advanceTime_arrive] at htx
    simp only [advanceTime_inputs, advanceTime_rxQueue, advanceTime_txSent, arrive_inputs,
      arrive_rxQueue, arrive_txSent] at hin hrx htx
    exact ⟨hin, hrx, htx⟩

end Sys2Proof.Machine
end

section
/-! The command word (spec/30_encoding.md R71 to R77): each of the decoder's three formats accepts exactly
the words the encoder writes in it, so decoding and encoding are inverse to each other, and the rows of the
opcode table cover exactly the words that decode. -/

namespace Sys2Proof

/-! ### Encoded words decode -/

theorem bareCommand_wordOf (op : BitVec 4) (i : Instr) :
    bareCommand (wordOf op 0 0) i = .ok i := by simp [bareCommand]

theorem byteCommand_wordOf (op : BitVec 4) (d : Byte) (i : Byte → Instr) :
    byteCommand (wordOf op 0 d) i = .ok (i d) := by simp [byteCommand]

theorem sendCommand_wordOf (op : BitVec 4) (w : Bool) (c : Byte) :
    sendCommand (wordOf op (if w then 1 else 0) c) = .ok (.encSend w c) := by
  cases w <;> simp [sendCommand]

/-- Each command's opcode chooses its own format, which accepts the word (R72, R74). -/
theorem decode_encode (i : Instr) : decode (encode i) = .ok i := by
  cases i with
  | nop | accReset | accRead | addrRd | valClr | decStart | statRd | plenRd | errcRd =>
    simp only [decode, encode, opField_wordOf, BitVec.reduceToNat, bareCommand_wordOf]
  | accAdd d | addrWr d | valPush d | pbufRd d =>
    simp only [decode, encode, opField_wordOf, BitVec.reduceToNat, byteCommand_wordOf]
  | encSend w c =>
    simp only [decode, encode, opField_wordOf, BitVec.reduceToNat, sendCommand_wordOf]

/-- Settles O1, format by format. -/
theorem decodeEncodeRoundTrip : Obligations.DecodeEncodeRoundTrip := decode_encode

/-! ### Decoded words are encodings -/

section

variable {w : Word} {j : Instr} {op : BitVec 4}

/-- A word with this opcode and these other fields. -/
theorem wordOf_eq {fl : BitVec 4} {d : Byte} (hop : (opField w).toNat = op.toNat)
    (hfl : flField w = fl) (hd : dField w = d) : wordOf op fl d = w := by
  rw [← BitVec.eq_of_toNat_eq hop, ← hfl, ← hd, wordOf_fields]

/-- A command without operand has one word. -/
theorem encode_of_bareCommand {i : Instr} (h : bareCommand w i = .ok j)
    (henc : encode i = wordOf op 0 0) (hop : (opField w).toNat = op.toNat) : encode j = w := by
  rcases bareCommand_cases w i with ⟨hfl, hd, e⟩ | ⟨_, e⟩ <;> rw [e] at h <;> cases h
  rw [henc, wordOf_eq hop hfl hd]

/-- A command with a byte operand has one word for each byte. -/
theorem encode_of_byteCommand {i : Byte → Instr} (h : byteCommand w i = .ok j)
    (henc : ∀ d, encode (i d) = wordOf op 0 d) (hop : (opField w).toNat = op.toNat) : encode j = w := by
  rcases byteCommand_cases w i with ⟨hfl, e⟩ | ⟨_, e⟩ <;> rw [e] at h <;> cases h
  rw [henc, wordOf_eq hop hfl rfl]

/-- The marker bit is all that is left of an FL field below two (R74). -/
theorem marker_of_flField (h : (flField w).toNat < 2) :
    (if (flField w).getLsbD 0 then 1 else 0) = flField w := by
  generalize flField w = fl at h ⊢
  revert fl
  decide

/-- ENC_SEND has one word for each marker and byte. -/
theorem encode_of_sendCommand (h : sendCommand w = .ok j) (hop : (opField w).toNat = 8) :
    encode j = w := by
  rcases sendCommand_cases w with ⟨hfl, e⟩ | ⟨_, e⟩ <;> rw [e] at h <;> cases h
  exact wordOf_eq hop (marker_of_flField hfl).symm rfl

end

/-- Arm by arm of the decoder, in the order of OP: the format that accepted the word leaves no bit of it
free (R72, R73). ACC_ADD, ADDR_WR, VAL_PUSH and PBUF_RD take a byte, ENC_SEND is the ninth arm, the last
one rejects the reserved opcodes, and every other command stands alone. -/
theorem encode_of_decode {w : Word} {i : Instr} (h : decode w = .ok i) : encode i = w := by
  unfold decode at h
  split at h
  case h_3 hop | h_5 hop | h_8 hop | h_13 hop => exact encode_of_byteCommand h (fun _ => rfl) hop
  case h_9 hop => exact encode_of_sendCommand h hop
  case h_15 => cases h
  all_goals next hop => exact encode_of_bareCommand h rfl hop

/-- Settles O2: the inversion of the decoder, `encode_of_decode`. -/
theorem encodeDecodeRoundTrip : Obligations.EncodeDecodeRoundTrip := fun _ _ => encode_of_decode

theorem encode_injective {i j : Instr} (h : encode i = encode j) : i = j :=
  Except.ok.inj ((decode_encode i).symm.trans (h ▸ decode_encode j))

/-- Settles O4: each word is the encoding of the command the spec names, and so it decodes to it. -/
theorem specWordsDecode : Obligations.SpecWordsDecode :=
  ⟨decode_encode .nop, decode_encode (.accAdd 58), decode_encode .accRead, decode_encode (.addrWr 12),
    decode_encode (.valPush 49), decode_encode (.encSend false 117), decode_encode (.encSend true 117),
    decode_encode .decStart, decode_encode .statRd, decode_encode (.pbufRd 3), decode_encode .errcRd⟩

/-! ### The opcode table -/

theorem wordOf_and (op op' fl fl' : BitVec 4) (d d' : Byte) :
    wordOf op fl d &&& wordOf op' fl' d' = wordOf (op &&& op') (fl &&& fl') (d &&& d') := by
  unfold wordOf
  rw [← BitVec.and_append, ← BitVec.and_append]

theorem wordOf_inj {op op' fl fl' : BitVec 4} {d d' : Byte} (h : wordOf op fl d = wordOf op' fl' d') :
    op = op' ∧ fl = fl' ∧ d = d' :=
  ⟨by simpa using congrArg opField h, by simpa using congrArg flField h, by simpa using congrArg dField h⟩

section

variable {m : String} {w : Word} {op : BitVec 4}

/-- A word with a row's fixed bits has them field by field. -/
theorem Row.fields_of_covers {om fm fl : BitVec 4} {dm d : Byte}
    (h : Row.covers ⟨m, wordOf om fm dm, wordOf op fl d⟩ w = true) :
    opField w &&& om = op ∧ flField w &&& fm = fl ∧ dField w &&& dm = d := by
  rw [Row.covers, beq_iff_eq, ← wordOf_fields w, wordOf_and] at h
  simpa using wordOf_inj h

/-- The row of a command without operand fixes every bit. -/
theorem exists_encode_of_bareRow (i : Instr)
    (h : Row.covers ⟨i.mnemonic, BitVec.allOnes 16, encode i⟩ w = true) :
    ∃ j, encode j = w ∧ j.mnemonic = i.mnemonic := by
  rw [Row.covers, beq_iff_eq, BitVec.and_allOnes] at h
  exact ⟨i, h.symm, rfl⟩

/-- The row of a command with a byte operand leaves D free. -/
theorem exists_encode_of_byteRow (i : Byte → Instr) (henc : ∀ d, encode (i d) = wordOf op 0 d)
    (hm : ∀ d, (i d).mnemonic = m) (h : Row.covers ⟨m, wordOf 0xF 0xF 0, wordOf op 0 0⟩ w = true) :
    ∃ j, encode j = w ∧ j.mnemonic = m := by
  obtain ⟨hop, hfl, -⟩ := Row.fields_of_covers h
  rw [show (0xF : BitVec 4) = BitVec.allOnes 4 from rfl, BitVec.and_allOnes] at hop hfl
  refine ⟨i (dField w), ?_, hm _⟩
  rw [henc, ← hop, ← hfl, wordOf_fields]

/-- The row of ENC_SEND leaves FL[0] and D free. -/
theorem exists_encode_of_sendRow
    (h : Row.covers ⟨"ENC_SEND", wordOf 0xF 0xE 0, wordOf 8 0 0⟩ w = true) :
    ∃ j, encode j = w ∧ j.mnemonic = "ENC_SEND" := by
  obtain ⟨hop, hfl, -⟩ := Row.fields_of_covers h
  rw [show (0xF : BitVec 4) = BitVec.allOnes 4 from rfl, BitVec.and_allOnes] at hop
  have hlt : (flField w).toNat < 2 := by
    generalize flField w = fl at hfl ⊢
    revert fl
    decide
  exact ⟨.encSend ((flField w).getLsbD 0) (dField w),
    wordOf_eq (congrArg BitVec.toNat hop) (marker_of_flField hlt).symm rfl, rfl⟩

end

/-- A word that has the fixed bits of a row is a word of the row's command. -/
theorem exists_encode_of_covers {r : Row} {w : Word} (hr : r ∈ opcodeTable) (h : r.covers w = true) :
    ∃ i, encode i = w ∧ i.mnemonic = r.mnemonic := by
  simp only [opcodeTable, List.mem_cons, List.not_mem_nil, or_false] at hr
  rcases hr with rfl | rfl | rfl | rfl | rfl | rfl | rfl | rfl | rfl | rfl | rfl | rfl | rfl | rfl
  · exact exists_encode_of_bareRow .nop h
  · exact exists_encode_of_bareRow .accReset h
  · exact exists_encode_of_byteRow (op := 2) .accAdd (fun _ => rfl) (fun _ => rfl) h
  · exact exists_encode_of_bareRow .accRead h
  · exact exists_encode_of_byteRow (op := 4) .addrWr (fun _ => rfl) (fun _ => rfl) h
  · exact exists_encode_of_bareRow .addrRd h
  · exact exists_encode_of_bareRow .valClr h
  · exact exists_encode_of_byteRow (op := 7) .valPush (fun _ => rfl) (fun _ => rfl) h
  · exact exists_encode_of_sendRow h
  · exact exists_encode_of_bareRow .decStart h
  · exact exists_encode_of_bareRow .statRd h
  · exact exists_encode_of_bareRow .plenRd h
  · exact exists_encode_of_byteRow (op := 12) .pbufRd (fun _ => rfl) (fun _ => rfl) h
  · exact exists_encode_of_bareRow .errcRd h

/-- Every command's word has the fixed bits of its row (R72). -/
theorem encodesItsRow : ∀ i : Instr, Laws.EncodesItsRow.Statement i
  | .nop => Laws.EncodesItsRow.nop
  | .accReset => Laws.EncodesItsRow.accReset
  | .accAdd d => Laws.EncodesItsRow.accAdd d
  | .accRead => Laws.EncodesItsRow.accRead
  | .addrWr n => Laws.EncodesItsRow.addrWr n
  | .addrRd => Laws.EncodesItsRow.addrRd
  | .valClr => Laws.EncodesItsRow.valClr
  | .valPush c => Laws.EncodesItsRow.valPush c
  | .encSend w c => Laws.EncodesItsRow.encSend w c
  | .decStart => Laws.EncodesItsRow.decStart
  | .statRd => Laws.EncodesItsRow.statRd
  | .plenRd => Laws.EncodesItsRow.plenRd
  | .pbufRd k => Laws.EncodesItsRow.pbufRd k
  | .errcRd => Laws.EncodesItsRow.errcRd

/-- No mnemonic stands in two rows. -/
theorem opcodeTable_mnemonics_nodup : (opcodeTable.map Row.mnemonic).Nodup := by decide

/-- The row of a command's word is the row with its mnemonic. -/
theorem covers_encode_iff {r : Row} (hr : r ∈ opcodeTable) {i : Instr} :
    r.covers (encode i) = true ↔ r.mnemonic = i.mnemonic := by
  constructor
  · intro h
    obtain ⟨j, hj, hm⟩ := exists_encode_of_covers hr h
    rw [← hm, encode_injective hj]
  · intro hm
    obtain ⟨r', hr', hm', hcov⟩ := encodesItsRow i
    rwa [List.inj_on_of_nodup_map opcodeTable_mnemonics_nodup hr hr' (hm.trans hm'.symm)]

/-- Each command has one row. -/
theorem rows_with_mnemonic (i : Instr) :
    (opcodeTable.filter (·.mnemonic = i.mnemonic)).map Row.mnemonic = [i.mnemonic] := by
  cases i <;> rfl

/-- Settles O3: a word that decodes is the word of its command, and a word that a row covers decodes. -/
theorem decodeMatchesExactlyOneRow : Obligations.DecodeMatchesExactlyOneRow := by
  intro w
  cases h : decode w with
  | ok i =>
    rw [← encode_of_decode h]
    have hrows : opcodeTable.filter (·.covers (encode i)) =
        opcodeTable.filter (·.mnemonic = i.mnemonic) :=
      List.filter_congr fun r hr => by
        rw [Bool.eq_iff_iff, covers_encode_iff hr, decide_eq_true_iff]
    exact .inl ⟨i, rfl, hrows ▸ rows_with_mnemonic i⟩
  | error e =>
    refine .inr ⟨⟨e, rfl⟩, List.filter_eq_nil_iff.mpr fun r hr hcov => ?_⟩
    obtain ⟨i, rfl, -⟩ := exists_encode_of_covers hr hcov
    simp [decode_encode] at h

end Sys2Proof
end

section
/-! The order of spec/30_encoding.md R91 in one step, and the commands a pseudo-instruction stands for (R79),
run one after the other: ACC_STR sums its bytes, VAL_NUM stores its digits. -/

namespace Sys2Proof.Machine

variable {s t : State}

/-! ### One event -/

/-- RESET is processed at any timestamp, and nothing else is done for it (R91, R240). -/
theorem processInput_reset {x : Input} (hx : x.event = .reset) :
    processInput x s = .next (hardReset (arrive x.arrived s)) := if_pos hx

/-- Any other event below T_PREV breaks the contract (R91 step 1). -/
theorem processInput_early {x : Input} (hx : x.event ≠ .reset) (ht : x.time < s.tPrev) :
    processInput x s = .refused .timeRunsBackwards := (if_neg hx).trans (if_pos ht)

/-- Any other event on time: T_PREV, the timer phase, the event's own rule (R91 steps 2 to 4). -/
theorem processInput_onTime {x : Input} (hx : x.event ≠ .reset) (ht : s.tPrev ≤ x.time) :
    processInput x s = handle x.event (advanceTime x.time (arrive x.arrived s)) :=
  (if_neg hx).trans (if_neg (Nat.not_lt.mpr ht))

/-- Settles O5: the empty case is `step_nil`, and the others are the arms of `processInput`. -/
theorem stepProcessesTheNextEvent : Obligations.StepProcessesTheNextEvent := by
  refine ⟨fun s => step_nil, fun s x rest hi => ?_⟩
  rw [step_cons hi]
  refine ⟨processInput_reset, fun hx ht => processInput_early hx ht,
    fun hx ht => processInput_onTime hx ht, fun hx ht => ?_⟩
  have hne : x.event ≠ .reset := by simp [hx]
  have htick : ∀ u : State, handle x.event u = .next u := fun u => hx ▸ rfl
  exact (processInput_onTime (s := { s with inputs := rest }) hne ht).trans (htick _)

/-! ### Commands in a row -/

/-- A command that answers a next state hands it to the rest of the list. -/
theorem execAll_cons {i : Instr} {rest : List Instr} (h : exec i s = .next t) :
    execAll (i :: rest) s = execAll rest t := by simp only [execAll, h]

theorem anyBusy_eq_false : anyBusy s = false ↔ s.encPh = .idle ∧ s.decSt = .idle := by
  simp [anyBusy, encBusy, decBusy]

/-- ACC_RESET outside a frame (R102). -/
theorem exec_accReset_accepted (h : anyBusy s = false) :
    exec .accReset s = .next (accept 0 { s with acc := 0 }) := by
  simp [exec, execAccReset, h]

/-- ACC_ADD outside a frame (R103). -/
theorem exec_accAdd_accepted (d : Byte) (h : anyBusy s = false) :
    exec (.accAdd d) s = .next (accept 0 { s with acc := accAdd s.acc d }) := by
  simp [exec, execAccAdd, h]

/-- VAL_CLR while no frame is being sent (R123). -/
theorem exec_valClr_accepted (h : encBusy s = false) :
    exec .valClr s = .next (accept 0 { s with vlen := 0 }) := by
  simp [exec, execValClr, h]

/-- VAL_PUSH of a digit that fits, while no frame is being sent (R124). -/
theorem exec_valPush_accepted {c : Byte} (h : encBusy s = false) (hc : isDigit c = true)
    (hlt : s.vlen < s.params.valueMax) :
    exec (.valPush c) s =
      .next (accept 0 { s with vbuf := s.vbuf.write s.vlen c, vlen := s.vlen + 1 }) := by
  simp [exec, execValPush, h, hc, hlt.ne, writeBuf_ok hlt]

/-! ### ACC_STR -/

/-- A row of ACC_ADDs folds their bytes into ACC. The state before it is one a command was accepted in, so
that the empty row changes nothing either. -/
theorem execAll_accAdd (bs : List Byte) (h : anyBusy s = false) (a : BitVec 5) :
    execAll (bs.map .accAdd) (accept 0 { s with acc := a }) =
      .next (accept 0 { s with acc := bs.foldl accAdd a }) := by
  induction bs generalizing a with
  | nil => rfl
  | cons b rest ih =>
    exact (execAll_cons (exec_accAdd_accepted (s := accept 0 { s with acc := a }) b h)).trans
      (ih (accAdd a b))

/-- ACC_STR outside a frame leaves the byte string's checksum in ACC (R79). -/
theorem execAll_accStr (bs : List Byte) (h : anyBusy s = false) :
    execAll (Pseudo.expand (.accStr bs)) s = .next (accept 0 { s with acc := accOf bs }) :=
  (execAll_cons (exec_accReset_accepted h)).trans (execAll_accAdd bs h 0)

/-- The checksum of a byte string is its byte sum modulo 26 (R105). -/
theorem accOf_toNat (bs : List Byte) : (accOf bs).toNat = (bs.map BitVec.toNat).sum % 26 := by
  simpa [accOf] using foldl_accAdd_toNat bs 0 (by decide)

/-- Settles O13: the fold of ACC_ADD is `accOf`, whose value is the byte sum modulo 26. -/
theorem accStrComputesTheByteSum : Obligations.AccStrComputesTheByteSum := by
  intro bs s henc hdec
  exact ⟨_, execAll_accStr bs (anyBusy_eq_false.mpr ⟨henc, hdec⟩), accOf_toNat bs, rfl, rfl⟩

/-! ### VAL_NUM -/

/-- A decimal digit's code is an operand VAL_PUSH takes (R76, R84). -/
theorem isDigit_digitChar {n : Nat} (h : n < 10) : isDigit (digitChar n) = true := by
  simp only [isDigit, digitChar_toNat h, Bool.and_eq_true, decide_eq_true_eq]
  omega

/-- Rendering writes digits only, however far it goes (R126). -/
theorem isDigit_of_mem_renderDigits {fuel n : Nat} {b : Byte} (hb : b ∈ renderDigits fuel n) :
    isDigit b = true := by
  induction fuel generalizing n with
  | zero =>
    rw [List.mem_singleton.mp hb]
    exact isDigit_digitChar (Nat.mod_lt n (by decide))
  | succ fuel ih =>
    unfold renderDigits at hb
    split at hb
    · next hn => exact List.mem_singleton.mp hb ▸ isDigit_digitChar hn
    · rcases List.mem_append.mp hb with hb | hb
      · exact ih hb
      · exact List.mem_singleton.mp hb ▸ isDigit_digitChar (Nat.mod_lt n (by decide))

/-- A byte stored at VBUF[VLEN] is the value's new last character (R25, R124). -/
theorem valueBytes_push (s : State) (c : Byte) :
    valueBytes { s with vbuf := s.vbuf.write s.vlen c, vlen := s.vlen + 1 } = valueBytes s ++ [c] := by
  have hbelow : (List.range s.vlen).filterMap (s.vbuf.write s.vlen c).read = valueBytes s :=
    List.filterMap_congr fun i hi => s.vbuf.read_write_other c (List.mem_range.mp hi).ne
  simp [valueBytes, List.range_succ, hbelow, s.vbuf.read_write_same s.vlen c]

/-- A row of VAL_PUSHes of digits that fit VBUF appends them to the value. The state before it is one a
command was accepted in, so that the empty row changes nothing either. -/
theorem execAll_valPush {ds : List Byte} (h : encBusy s = false) (hd : ∀ c ∈ ds, isDigit c = true)
    (hfit : s.vlen + ds.length ≤ s.params.valueMax) :
    ∃ m, execAll (ds.map .valPush) (accept 0 s) =
        .next (accept 0 { s with vbuf := m, vlen := s.vlen + ds.length }) ∧
      valueBytes { s with vbuf := m, vlen := s.vlen + ds.length } = valueBytes s ++ ds := by
  induction ds generalizing s with
  | nil => exact ⟨s.vbuf, rfl, (List.append_nil _).symm⟩
  | cons c rest ih =>
    obtain ⟨hc, hrest⟩ := List.forall_mem_cons.mp hd
    rw [List.length_cons] at hfit ⊢
    have hlt : s.vlen < s.params.valueMax := by omega
    have hlen : s.vlen + 1 + rest.length = s.vlen + (rest.length + 1) := by omega
    obtain ⟨m, hrun, hval⟩ :=
      ih (s := { s with vbuf := s.vbuf.write s.vlen c, vlen := s.vlen + 1 }) h hrest (hlen ▸ hfit)
    simp only [hlen] at hrun hval
    refine ⟨m, ?_, ?_⟩
    · exact (execAll_cons (exec_valPush_accepted (s := accept 0 s) h hc hlt)).trans hrun
    · rw [hval, valueBytes_push, List.append_assoc, List.singleton_append]

/-- Settles O20: VAL_CLR empties the value, and the digits of `renderDec` are pushed one by one. -/
theorem valNumLoadsTheDigits : Obligations.ValNumLoadsTheDigits := by
  intro n s henc hfit
  have hidle : encBusy s = false := encBusy_eq_false.mpr henc
  obtain ⟨m, hrun, hval⟩ := execAll_valPush (s := { s with vlen := 0 }) (ds := renderDec n) hidle
    (fun _ => isDigit_of_mem_renderDigits) ((Nat.zero_add _).trans_le hfit)
  rw [Nat.zero_add] at hrun hval
  exact ⟨_, (execAll_cons (exec_valClr_accepted hidle)).trans hrun, hval, rfl, rfl, rfl⟩

end Sys2Proof.Machine
end

section
/-! The words of one opcode (spec/30_encoding.md R72, R73): a format of the decoder leaves exactly the legal
words, and the block refuses every other word of the opcode with ILLEGAL (R198). -/

namespace Sys2Proof.Machine

/-- An illegal word changes the command report only (R198). -/
theorem execWord_illegal {w : Word} {e : Illegal} (h : decode w = .error e) (s : State) :
    execWord w s = .next (refuse .illegal s) := by
  simp only [execWord, h, execIllegal]

section

variable {op : BitVec 4}

/-- An opcode read in the format without operand has one legal word. -/
theorem onlyWord_of_bareCommand {i : Instr} (hop : ∀ w, opField w = op → decode w = bareCommand w i) :
    OnlyWord (wordOf op 0 0) i := by
  refine ⟨(hop _ (opField_wordOf op 0 0)).trans (bareCommand_wordOf op i), fun w hw hne s => ?_⟩
  rw [opField_wordOf] at hw
  rcases bareCommand_cases w i with ⟨hfl, hd, _⟩ | ⟨_, hbad⟩
  · exact absurd (wordOf_eq (congrArg BitVec.toNat hw) hfl hd).symm hne
  · exact execWord_illegal ((hop w hw).trans hbad) s

/-- A word with FL zero, as a number. -/
theorem wordOf_zero_eq_ofNat (op : BitVec 4) (d : Byte) :
    wordOf op 0 d = BitVec.ofNat 16 (op.toNat * 4096 + d.toNat) := by
  have hop := op.isLt
  have hd := d.isLt
  have hfl : (0 : BitVec 4).toNat = 0 := rfl
  apply BitVec.eq_of_toNat_eq
  rw [wordOf_toNat, BitVec.toNat_ofNat, hfl]
  omega

/-- An opcode read in the byte format has one legal word for each byte. -/
theorem operandWords_of_byteCommand {i : Byte → Instr}
    (hop : ∀ w, opField w = op → decode w = byteCommand w i) : OperandWords op.toNat i := by
  refine ⟨fun d => ?_, fun w hw hfl s => ?_⟩
  · rw [← wordOf_zero_eq_ofNat]
    exact (hop _ (opField_wordOf op 0 d)).trans (byteCommand_wordOf op d i)
  · have hw' : opField w = op := BitVec.eq_of_toNat_eq ((opField_toNat w).trans hw)
    rcases byteCommand_cases w i with ⟨hzero, _⟩ | ⟨_, hbad⟩
    · exact absurd ((flField_toNat w).symm.trans (congrArg BitVec.toNat hzero)) hfl
    · exact execWord_illegal ((hop w hw').trans hbad) s

end

end Sys2Proof.Machine
end

section
/-! The accumulator's commands (spec/40_checksum.md R102 to R104) and the laws of its arithmetic (R100,
R106). -/

namespace Sys2Proof.Machine

variable {s : State}

/-! ### Commands -/

/-- ACC_RESET during a frame (R102). -/
theorem exec_accReset_busy (h : anyBusy s = true) : exec .accReset s = .next (refuse .busy s) :=
  if_pos h

/-- ACC_ADD during a frame (R103). -/
theorem exec_accAdd_busy (d : Byte) (h : anyBusy s = true) :
    exec (.accAdd d) s = .next (refuse .busy s) := if_pos h

/-- Settles O9: OP 1 is read in the format without operand, and the interlock decides the rest. -/
theorem accResetCommand : Obligations.AccResetCommand :=
  ⟨onlyWord_of_bareCommand (op := 1) fun w hw => by simp [decode, hw],
    fun _ => ⟨fun henc hdec => exec_accReset_accepted (anyBusy_eq_false.mpr ⟨henc, hdec⟩),
      fun hbusy => exec_accReset_busy (anyBusy_eq_true.mpr hbusy)⟩⟩

/-- Settles O10: OP 2 is read in the byte format, and the sum is `accAdd_toNat`. -/
theorem accAddCommand : Obligations.AccAddCommand :=
  ⟨operandWords_of_byteCommand (op := 2) fun w hw => by simp [decode, hw],
    fun d s => ⟨fun henc hdec => ⟨accAdd s.acc d, accAdd_toNat s.acc d,
        exec_accAdd_accepted d (anyBusy_eq_false.mpr ⟨henc, hdec⟩)⟩,
      fun hbusy => exec_accAdd_busy d (anyBusy_eq_true.mpr hbusy)⟩⟩

/-- The letter of a reduced accumulator is uppercase (R101). -/
theorem ckChar_upper {a : BitVec 5} (h : a.toNat ≤ 25) :
    0x41 ≤ (ckChar a).toNat ∧ (ckChar a).toNat ≤ 0x5A := by
  rw [ckChar_toNat]
  omega

/-- Settles O11: OP 3 is read in the format without operand, and the answer is the checksum letter. -/
theorem accReadCommand : Obligations.AccReadCommand :=
  ⟨onlyWord_of_bareCommand (op := 3) fun w hw => by simp [decode, hw],
    fun s => ⟨ckChar s.acc, ckChar_toNat s.acc, ckChar_upper, rfl⟩⟩

/-! ### Arithmetic -/

/-- Repeated subtraction reaches the remainder when the subtractions suffice. -/
theorem subtractTo26_eq_mod {fuel n : Nat} (h : n < 26 * (fuel + 1)) : subtractTo26 fuel n = n % 26 := by
  induction fuel generalizing n with
  | zero => exact (Nat.mod_eq_of_lt h).symm
  | succ fuel ih =>
    rw [subtractTo26]
    split
    · next hlt => exact (Nat.mod_eq_of_lt hlt).symm
    · next hge => rw [ih (by omega), ← Nat.mod_eq_sub_mod (Nat.le_of_not_lt hge)]

/-- Settles O12: the exact sum is at most 280, which ten subtractions bring below 26 (R100). -/
theorem repeatedSubtractionIsAccAdd : Obligations.RepeatedSubtractionIsAccAdd := by
  intro a b fuel ha hfuel
  have hb : b.toNat < 256 := b.isLt
  rw [accAdd_toNat, subtractTo26_eq_mod (by omega)]

/-- Only the byte sum modulo 26 decides a checksum (R105). -/
theorem accOf_congr {bs cs : List Byte}
    (h : (bs.map BitVec.toNat).sum % 26 = (cs.map BitVec.toNat).sum % 26) : accOf bs = accOf cs :=
  BitVec.eq_of_toNat_eq (by rw [accOf_toNat, accOf_toNat, h])

theorem accOf_append (bs cs : List Byte) :
    (accOf (bs ++ cs)).toNat = ((accOf bs).toNat + (accOf cs).toNat) % 26 := by
  simp only [accOf_toNat, List.map_append, List.sum_append, ← Nat.add_mod]

theorem accOf_perm {bs cs : List Byte} (h : bs.Perm cs) : accOf bs = accOf cs :=
  accOf_congr (by rw [(h.map BitVec.toNat).sum_eq])

/-- Two bytes that sum to a multiple of 26 cancel. -/
theorem accAdd_cancel {a : BitVec 5} {b c : Byte} (ha : a.toNat ≤ 25)
    (h : (b.toNat + c.toNat) % 26 = 0) : accAdd (accAdd a b) c = a := by
  apply BitVec.eq_of_toNat_eq
  rw [accAdd_toNat, accAdd_toNat]
  omega

/-- Settles O14: the four laws of R106 follow from the checksum being the byte sum modulo 26. -/
theorem checksumAlgebra : Obligations.ChecksumAlgebra :=
  ⟨accOf_append, fun _ _ => accOf_perm, fun _ _ _ => accAdd_cancel,
    fun _ _ h => congrArg ckChar (accOf_congr h)⟩

end Sys2Proof.Machine
end

section
/-! ACC through every part of a step (spec/40_checksum.md R108, spec/41_encoder.md R135). -/

namespace Sys2Proof.Machine

variable {s t : State}

/-- The commands that change ACC: ACC_RESET and ACC_ADD while neither engine runs, and ENC_SEND. -/
theorem exec_acc {i : Instr} (h : exec i s = .next t) (hne : t.acc ≠ s.acc) :
    ((i = .accReset ∨ ∃ d, i = .accAdd d) ∧ t.encPh = .idle ∧ t.decSt = .idle) ∨
    ∃ v c, i = .encSend v c := by
  cases i with
  | accReset =>
    rcases execAccReset_next h with ⟨_, rfl⟩ | ⟨hidle, rfl⟩
    · exact absurd rfl hne
    · exact .inl ⟨.inl rfl, anyBusy_eq_false.mp hidle⟩
  | accAdd d =>
    rcases execAccAdd_next h with ⟨_, rfl⟩ | ⟨hidle, rfl⟩
    · exact absurd rfl hne
    · exact .inl ⟨.inr ⟨d, rfl⟩, anyBusy_eq_false.mp hidle⟩
  | encSend v c => exact .inr ⟨v, c, rfl⟩
  | nop | accRead | addrRd | statRd | plenRd | errcRd => cases h; exact absurd rfl hne
  | addrWr n =>
    rcases execAddrWr_next h with ⟨_, rfl⟩ | ⟨_, _, rfl⟩ | ⟨_, _, rfl⟩ <;> exact absurd rfl hne
  | valClr => rcases execValClr_next h with ⟨_, rfl⟩ | ⟨_, rfl⟩ <;> exact absurd rfl hne
  | valPush c =>
    rcases execValPush_next h with ⟨_, rfl⟩ | ⟨_, _, rfl⟩ | ⟨_, _, _, rfl⟩ | ⟨_, _, _, rfl⟩ <;>
      exact absurd rfl hne
  | decStart => rcases execDecStart_next h with ⟨_, rfl⟩ | ⟨_, rfl⟩ <;> exact absurd rfl hne
  | pbufRd k => rcases execPbufRd_next h with ⟨_, rfl⟩ | ⟨_, _, _, rfl⟩ <;> exact absurd rfl hne

/-- The encoder sums the bytes of the body only (R132 to R134). -/
theorem advanceFrame_acc {b : Byte} (hp : s.encPh ≠ .body) : (advanceFrame b s).acc = s.acc := by
  rcases advanceFrame_cases b s with
    ⟨_, e⟩ | ⟨hbody, _, _⟩ | ⟨hbody, _, _⟩ | ⟨_, e⟩ | ⟨_, _, e⟩ | ⟨_, _, e⟩
  case inr.inl | inr.inr.inl => exact absurd hbody hp
  all_goals rw [e]

/-- A failed write loses ACC in BODY only (R135). -/
theorem failFrame_acc (hp : s.encPh ≠ .body) : (failFrame s).acc = s.acc := if_neg hp

/-- The bytes the decoder sums: the colon in SEEK, both address bytes, and a payload byte that is not
uppercase (R152 to R156). -/
def DecoderSums (b : Byte) (s : State) : Prop :=
  (s.decSt = .seek ∧ b = 0x3A) ∨ s.decSt = .addrHi ∨ s.decSt = .addrLo ∨
    (s.decSt = .payload ∧ isUpper b = false)

/-- The decoder leaves ACC alone at every other byte: junk (R153), the checksum letter (R159), and what
comes after it (R157, R158). -/
theorem decodeByte_acc {b : Byte} (h : decodeByte b s = .next t) (hne : t.acc ≠ s.acc) :
    DecoderSums b s := by
  rcases decodeByte_next h with
    ⟨_, rfl⟩ | ⟨hd, rfl⟩ | ⟨hd, _⟩ | ⟨hd, _⟩ | ⟨_, _, rfl⟩ | ⟨hd, hu, _⟩ | ⟨_, rfl⟩
  case inl => exact absurd rfl hne
  case inr.inl =>
    rcases rxSeek_cases b s with ⟨hb, _⟩ | ⟨_, _, e⟩ | ⟨_, _, e⟩
    · exact .inl ⟨hd, hb⟩
    all_goals exact absurd (by rw [e]) hne
  case inr.inr.inl => exact .inr (.inl hd)
  case inr.inr.inr.inl => exact .inr (.inr (.inl hd))
  case inr.inr.inr.inr.inl =>
    rcases rxChecksum_cases b s with ⟨_, e⟩ | ⟨_, e⟩ <;> exact absurd (by rw [e]) hne
  case inr.inr.inr.inr.inr.inl => exact .inr (.inr (.inr ⟨hd, hu⟩))
  case inr.inr.inr.inr.inr.inr =>
    rcases rxSwallow_cases b s with ⟨_, e⟩ | ⟨_, e⟩ <;> exact absurd (by simp [e]) hne

/-- The event `e` from `s` to `t` is one R108 and R135 let write ACC. -/
def WritesAcc (e : Event) (s t : State) : Prop :=
  e = .reset ∨
  (∃ w i, e = .cmd w ∧ decode w = .ok i ∧
    (i = .accReset ∨ (∃ d, i = .accAdd d)) ∧ t.encPh = .idle ∧ t.decSt = .idle) ∨
  (∃ w v c, e = .cmd w ∧ decode w = .ok (.encSend v c)) ∨
  (∃ ok, e = .txAck ok ∧ s.encPh = .body) ∨
  (∃ b, e = .rxOffer b ∧ DecoderSums b s)

/-- An event's own rule (R91 step 4) that changes ACC is in the list. -/
theorem handle_acc {e : Event} (h : handle e s = .next t) (hne : t.acc ≠ s.acc) : WritesAcc e s t := by
  cases e with
  | cmd w =>
    rcases execWord_next h with ⟨i, hw, hi⟩ | ⟨_, _, rfl⟩
    · rcases exec_acc hi hne with hacc | ⟨v, c, rfl⟩
      · exact .inr (.inl ⟨w, i, rfl, hw, hacc⟩)
      · exact .inr (.inr (.inl ⟨w, v, c, rfl, hw⟩))
    · exact absurd rfl hne
  | txAck ok =>
    have hbody : s.encPh = .body := by
      by_contra hp
      cases ok with
      | true =>
        obtain ⟨b, _, rfl⟩ := txAckOk_next h
        exact hne (advanceFrame_acc hp)
      | false =>
        obtain ⟨_, rfl⟩ := txAckFail_next h
        exact hne (failFrame_acc hp)
    exact .inr (.inr (.inr (.inl ⟨ok, rfl, hbody⟩)))
  | rxOffer b =>
    exact .inr (.inr (.inr (.inr ⟨b, rfl, decodeByte_acc (rxOffer_next h).2 hne⟩)))
  | rxNone =>
    obtain ⟨_, ⟨_, rfl⟩ | ⟨_, rfl⟩⟩ := rxNone_next h
    · exact absurd (enterSettle_acc _ s) hne
    · exact absurd rfl hne
  | tick => cases h; exact absurd rfl hne
  | reset => exact .inl rfl

/-- The timer phase never moves the decoder into a reading state (R160). -/
theorem decSt_of_reading_advanceTime {d : Nat} (h : reading (advanceTime d s) = true) :
    (advanceTime d s).decSt = s.decSt := by
  rcases advanceTime_cases d s with ⟨_, _, e⟩ | ⟨_, e⟩ | ⟨_, e⟩ | ⟨_, e⟩
  · rw [e]
  · simp [e, reading] at h
  · rcases enterSettle_cases d { s with tPrev := d } with ⟨_, e'⟩ | ⟨_, e'⟩ <;>
      simp [e, e', reading] at h
  · simp [e, reading] at h

/-- A byte the decoder sums finds it in a reading state. -/
theorem DecoderSums.reading {b : Byte} (h : DecoderSums b s) : reading s = true := by
  rw [reading_eq_true]
  rcases h with ⟨hd, _⟩ | hd | hd | ⟨hd, _⟩
  · exact .inl hd
  · exact .inr (.inl hd)
  · exact .inr (.inr (.inl hd))
  · exact .inr (.inr (.inr hd))

/-- The list may be read in the state before the timer phase. -/
theorem WritesAcc.of_advanceTime {e : Event} {d : Nat} (h : WritesAcc e (advanceTime d s) t) :
    WritesAcc e s t := by
  rcases h with hreset | hacc | hsend | ⟨ok, he, hp⟩ | ⟨b, he, hsum⟩
  · exact .inl hreset
  · exact .inr (.inl hacc)
  · exact .inr (.inr (.inl hsend))
  · exact .inr (.inr (.inr (.inl ⟨ok, he, (advanceTime_encPh d s).symm.trans hp⟩)))
  · refine .inr (.inr (.inr (.inr ⟨b, he, ?_⟩)))
    have hd := decSt_of_reading_advanceTime hsum.reading
    rwa [DecoderSums, hd] at hsum

/-- Settles O58: the arrival of bytes and the timer phase leave ACC alone, and an event's own rule that
changes it is in the list of R108. -/
theorem writersOfAcc : Obligations.WritersOfAcc := by
  intro s t h hne
  rcases step_cases h with ⟨_, rfl⟩ | ⟨x, rest, hi, ⟨hreset, _⟩ | ⟨_, _, hx⟩⟩
  · exact absurd rfl hne
  · exact ⟨x, rest, hi, .inl hreset⟩
  · exact ⟨x, rest, hi, (handle_acc hx (by simpa using hne)).of_advanceTime⟩

end Sys2Proof.Machine
end

section
/-! ACC as the checksum of the frame in flight (spec/41_encoder.md R132, R133, spec/42_decoder.md R152 to
R159, R166): one rule per state update, and then every part of a step. While one engine runs the other is
idle, and the clauses of an idle engine claim nothing. -/

namespace Sys2Proof.Machine

variable {s t : State}

/-! ### The shared updates -/

/-- With both engines idle there is no frame to track. -/
theorem AccTracksFrame.of_idle (he : s.encPh = .idle) (hd : s.decSt = .idle) : AccTracksFrame s := by
  constructor <;> simp [he, hd]

/-- In SEEK no byte of a frame has come yet. -/
theorem AccTracksFrame.of_seek (he : s.encPh = .idle) (hd : s.decSt = .seek) : AccTracksFrame s := by
  constructor <;> simp [he, hd]

/-- At the first byte of the body the sum is empty (R130). -/
theorem AccTracksFrame.of_frameStart (hd : s.decSt = .idle) (hp : s.encPh = .body) (hi : s.encI = 0)
    (ha : s.acc = 0) : AccTracksFrame s := by
  constructor <;> simp [hd, hp, hi, ha]

theorem AccTracksFrame.withQueues (h : AccTracksFrame s) (q sent : List Byte) (xs : List Input) :
    AccTracksFrame { s with rxQueue := q, txSent := sent, inputs := xs } := { h with }

theorem AccTracksFrame.setTime (h : AccTracksFrame s) (d : Nat) :
    AccTracksFrame { s with tPrev := d } := { h with }

theorem AccTracksFrame.accept (h : AccTracksFrame s) (r : Byte) : AccTracksFrame (accept r s) :=
  { h with }

theorem AccTracksFrame.acceptQuietly (h : AccTracksFrame s) (r : Byte) :
    AccTracksFrame (acceptQuietly r s) := { h with }

theorem AccTracksFrame.refuse (h : AccTracksFrame s) (c : Cause) : AccTracksFrame (refuse c s) :=
  { h with }

/-- The value may change while no frame is being sent (R123, R124). -/
theorem AccTracksFrame.setValue (h : AccTracksFrame s) (he : s.encPh = .idle) (m : Memory) (n : Nat) :
    AccTracksFrame { s with vbuf := m, vlen := n } :=
  { h with sending := by simp [he], sent_body := by simp [he] }

/-- The attempt ends (R13): nothing is received any more. -/
theorem AccTracksFrame.finish (h : AccTracksFrame s) (r : DecResult) : AccTracksFrame (finish r s) :=
  { h with first_digit := by simp, second_digit := by simp, payload := by simp }

/-- The frame is complete (R163), and ACC keeps its sum. -/
theorem AccTracksFrame.enterSettle (h : AccTracksFrame s) (hd : s.decSt = .swallow) (d : Nat) :
    AccTracksFrame (enterSettle d s) := by
  rcases enterSettle_cases d s with ⟨_, e⟩ | ⟨_, e⟩ <;> rw [e]
  · exact { h.finish .frameOk with }
  · exact
    { h with
      first_digit := by simp
      second_digit := by simp
      payload := fun _ => h.payload (.inr (.inl hd)) }

/-- Steps 2 and 3 of R91: time passes, or an expired timer ends a part of the attempt (R160). -/
theorem AccTracksFrame.advanceTime (h : AccTracksFrame s) (d : Nat) :
    AccTracksFrame (advanceTime d s) := by
  have htime := h.setTime d
  rcases advanceTime_cases d s with ⟨_, _, e⟩ | ⟨_, e⟩ | ⟨hd, e⟩ | ⟨_, e⟩ <;> rw [e]
  · exact htime
  · exact htime.finish .timeout
  · exact htime.enterSettle hd d
  · exact htime.finish .frameOk

/-! ### Commands -/

/-- A command that could disturb the sum of a frame in flight is refused with BUSY (R250). -/
theorem exec_tracks {i : Instr} (h : AccTracksFrame s) (hx : exec i s = .next t) :
    AccTracksFrame t := by
  cases i with
  | nop | accRead | addrRd | plenRd => cases hx; exact h.accept _
  | statRd | errcRd => cases hx; exact h.acceptQuietly _
  | accReset =>
    rcases execAccReset_next hx with ⟨_, rfl⟩ | ⟨hb, rfl⟩
    · exact h.refuse _
    · obtain ⟨he, hd⟩ := anyBusy_eq_false.mp hb
      exact .of_idle he hd
  | accAdd b =>
    rcases execAccAdd_next hx with ⟨_, rfl⟩ | ⟨hb, rfl⟩
    · exact h.refuse _
    · obtain ⟨he, hd⟩ := anyBusy_eq_false.mp hb
      exact .of_idle he hd
  | addrWr n =>
    rcases execAddrWr_next hx with ⟨_, rfl⟩ | ⟨_, _, rfl⟩ | ⟨hb, _, rfl⟩
    · exact h.refuse _
    · exact h.refuse _
    · obtain ⟨he, hd⟩ := anyBusy_eq_false.mp hb
      exact .of_idle he hd
  | valClr =>
    rcases execValClr_next hx with ⟨_, rfl⟩ | ⟨he, rfl⟩
    · exact h.refuse _
    · exact (h.setValue (encBusy_eq_false.mp he) s.vbuf 0).accept 0
  | valPush c =>
    rcases execValPush_next hx with ⟨_, rfl⟩ | ⟨_, _, rfl⟩ | ⟨_, _, _, rfl⟩ | ⟨he, _, _, rfl⟩
    · exact h.refuse _
    · exact h.refuse _
    · exact h.refuse _
    · exact (h.setValue (encBusy_eq_false.mp he) _ _).accept 0
  | encSend w c =>
    rcases execEncSend_next hx with ⟨_, rfl⟩ | ⟨_, _, rfl⟩ | ⟨hb, _, rfl⟩
    · exact h.refuse _
    · exact h.refuse _
    · exact .of_frameStart (anyBusy_eq_false.mp hb).2 rfl rfl rfl
  | decStart =>
    rcases execDecStart_next hx with ⟨_, rfl⟩ | ⟨hb, rfl⟩
    · exact h.refuse _
    · exact .of_seek (anyBusy_eq_false.mp hb).1 rfl
  | pbufRd k =>
    rcases execPbufRd_next hx with ⟨_, rfl⟩ | ⟨_, b, _, rfl⟩
    · exact h.refuse _
    · exact h.accept b

/-! ### The transmit port -/

/-- While the encoder runs ACC has only the frame being sent to track (R45). -/
theorem AccTracksFrame.of_decSt_idle (hd : s.decSt = .idle)
    (hbody : s.encPh = .body → s.acc = accOf ((requestBody s).take s.encI))
    (hrest : s.encPh = .ck ∨ s.encPh = .term → s.acc = accOf (requestBody s)) : AccTracksFrame s := by
  refine ⟨hbody, hrest, ?_, ?_, ?_⟩ <;> simp [hd]

/-- One byte more of a list is one summand more. -/
theorem accOf_take_succ {bs : List Byte} {i : Nat} {b : Byte} (h : bs[i]? = some b) :
    accOf (bs.take (i + 1)) = accAdd (accOf (bs.take i)) b := by
  rw [List.take_add_one, h, Option.toList_some, accOf_concat]

theorem valueBytes_length (h : StateInv s) : (valueBytes s).length = s.vlen := by
  have hall : ∀ i ∈ List.range s.vlen, (s.vbuf.read i).isSome = true := fun i hi => by
    obtain ⟨b, hb, _⟩ := h.vbuf_digits i (List.mem_range.mp hi)
    rw [hb, Option.isSome_some]
  exact (List.filterMap_length_eq_length.mpr hall).trans List.length_range

/-- The body is 5 + VLEN bytes long (R131). -/
theorem requestBody_length (h : StateInv s) : (requestBody s).length = bodyLength s := by
  rw [requestBody, List.length_append, valueBytes_length h]
  rfl

/-- The acknowledged byte joins the sum in BODY, and the sum stays in CK and TERM (R132 to R134). -/
theorem advanceFrame_tracks {b : Byte} (hinv : StateInv s) (h : AccTracksFrame s)
    (hb : txByte s = .ok (some b)) : AccTracksFrame (advanceFrame b s) := by
  have hadd (hp : s.encPh = .body) :
      accAdd s.acc b = accOf ((requestBody s).take (s.encI + 1)) := by
    obtain ⟨c, hc, hport⟩ := txByte_body hinv hp
    obtain rfl : c = b := by simpa [hport] using hb
    rw [accOf_take_succ hc, ← h.sending hp]
  have hidle (hp : s.encPh ≠ .idle) : s.decSt = .idle := hinv.decSt_idle hp
  rcases advanceFrame_cases b s with
    ⟨_, e⟩ | ⟨hp, _, e⟩ | ⟨hp, hlast, e⟩ | ⟨hp, e⟩ | ⟨hp, _, e⟩ | ⟨hp, _, e⟩ <;> rw [e]
  · exact h
  · exact .of_decSt_idle (hidle (by simp [hp])) (fun _ => hadd hp) (by simp [hp])
  · refine .of_decSt_idle (hidle (by simp [hp])) (by simp) fun _ => ?_
    have hall : (requestBody s).take (s.encI + 1) = requestBody s :=
      List.take_of_length_le (by rw [requestBody_length hinv, hlast])
    exact (hadd hp).trans (congrArg accOf hall)
  · exact .of_decSt_idle (hidle (by simp [hp])) (by simp) fun _ => h.sent_body (.inl hp)
  · exact .of_decSt_idle (hidle (by simp [hp])) (by simp [hp]) fun _ => h.sent_body (.inr hp)
  · exact .of_idle rfl (hidle (by simp [hp]))

/-! ### The receive port -/

/-- While the decoder runs ACC has only the frame being received to track (R45). -/
theorem AccTracksFrame.of_encPh_idle (he : s.encPh = .idle)
    (hhi : s.decSt = .addrHi → s.acc = accOf [asciiColon])
    (hlo : s.decSt = .addrLo → s.acc = accOf [asciiColon, s.ah])
    (hpay : s.decSt = .payload ∨ s.decSt = .swallow ∨ s.decSt = .settle →
      s.acc = accOf (responseBody s.addr (payloadBytes s))) : AccTracksFrame s := by
  refine ⟨?_, ?_, hhi, hlo, hpay⟩ <;> simp [he]

/-- The one entry written past a filled part joins it at its end. -/
theorem Memory.filterMap_read_write (m : Memory) (n : Nat) (b : Byte) :
    (List.range (n + 1)).filterMap (m.write n b).read = (List.range n).filterMap m.read ++ [b] := by
  have hbelow : (List.range n).filterMap (m.write n b).read = (List.range n).filterMap m.read :=
    List.filterMap_congr fun i hi => m.read_write_other b (List.mem_range.mp hi).ne
  simp [List.range_succ, hbelow, m.read_write_same n b]

/-- A byte stored at PBUF[PLEN] is the payload's new last byte (R31, R156). -/
theorem payloadBytes_push (s : State) (b : Byte) :
    payloadBytes { s with pbuf := s.pbuf.write s.plen b, plen := s.plen + 1 } = payloadBytes s ++ [b] :=
  s.pbuf.filterMap_read_write s.plen b

/-- A payload byte joins the sum of the response (R156). -/
theorem accOf_responseBody_concat (a : BitVec 7) (p : List Byte) (b : Byte) :
    accOf (responseBody a (p ++ [b])) = accAdd (accOf (responseBody a p)) b := by
  rw [← accOf_concat, responseBody, responseBody, List.append_assoc _ p]

/-- Before its first byte the payload is empty. -/
theorem payloadBytes_of_plen_zero (h : s.plen = 0) : payloadBytes s = [] := by simp [payloadBytes, h]

/-- Each byte the decoder takes into the frame joins the sum (R152 to R156), and no other does. -/
theorem decodeByte_tracks {b : Byte} (hinv : StateInv s) (h : AccTracksFrame s)
    (hx : decodeByte b s = .next t) : AccTracksFrame t := by
  have hidle {d : DecState} (hd : s.decSt = d) (hne : d ≠ .idle) : s.encPh = .idle :=
    hinv.encPh_idle (hd ▸ hne)
  rcases decodeByte_next hx with
    ⟨_, rfl⟩ | ⟨hd, rfl⟩ | ⟨hd, rfl⟩ | ⟨hd, rfl⟩ | ⟨hd, _, rfl⟩ | ⟨hd, _, hp⟩ | ⟨hd, rfl⟩
  case inl => exact h
  case inr.inl =>
    have he := hidle hd (by decide)
    rcases rxSeek_cases b s with ⟨rfl, e⟩ | ⟨_, _, e⟩ | ⟨_, _, e⟩ <;> rw [e]
    · exact .of_encPh_idle he (fun _ => rfl) (by simp) (by simp)
    · exact .of_seek he hd
    · exact .of_idle he rfl
  case inr.inr.inl =>
    refine .of_encPh_idle (hidle hd (by decide)) (by simp [rxAddrHi]) (fun _ => ?_) (by simp [rxAddrHi])
    exact (congrArg (accAdd · b) (h.first_digit hd)).trans (accOf_concat [asciiColon] b).symm
  case inr.inr.inr.inl =>
    have he := hidle hd (by decide)
    rcases rxAddrLo_cases b s with ⟨hdigits, e⟩ | ⟨_, e⟩ <;> rw [e]
    · refine .of_encPh_idle he (by simp) (by simp) fun _ => ?_
      have hempty : payloadBytes s = [] := payloadBytes_of_plen_zero (hinv.plen_zero (.inr (.inr hd)))
      calc accAdd s.acc b = accOf ([asciiColon, s.ah] ++ [b]) := by
            rw [accOf_concat, h.second_digit hd]
        _ = accOf (responseBody s.addr (payloadBytes s)) := by
            rw [hempty, responseBody, ← hdigits]; rfl
    · exact .of_idle he rfl
  case inr.inr.inr.inr.inl =>
    have he := hidle hd (by decide)
    rcases rxChecksum_cases b s with ⟨_, e⟩ | ⟨_, e⟩ <;> rw [e]
    · exact .of_encPh_idle he (by simp) (by simp) fun _ => h.payload (.inl hd)
    · exact .of_idle he rfl
  case inr.inr.inr.inr.inr.inl =>
    have he := hidle hd (by decide)
    rcases rxPayloadByte_cases b s with ⟨_, _, e⟩ | ⟨_, _, e⟩ | ⟨_, e⟩ <;> rw [e] at hp <;> cases hp
    · refine .of_encPh_idle he (by simp [hd]) (by simp [hd]) fun _ => ?_
      calc accAdd s.acc b = accOf (responseBody s.addr (payloadBytes s ++ [b])) := by
            rw [accOf_responseBody_concat, h.payload (.inl hd)]
        _ = _ := congrArg (fun p => accOf (responseBody s.addr p)) (payloadBytes_push s b).symm
    · exact .of_idle he rfl
  case inr.inr.inr.inr.inr.inr =>
    rcases rxSwallow_cases b s with ⟨_, e⟩ | ⟨_, e⟩ <;> rw [e]
    · exact { h with }
    · exact h.enterSettle hd s.tPrev

/-! ### Every step -/

/-- The event's own rule (R91 step 4) keeps ACC on the frame. -/
theorem handle_tracks {e : Event} (hinv : StateInv s) (h : AccTracksFrame s)
    (hx : handle e s = .next t) : AccTracksFrame t := by
  cases e with
  | cmd w =>
    rcases execWord_next hx with ⟨_, _, hi⟩ | ⟨_, _, rfl⟩
    · exact exec_tracks h hi
    · exact h.refuse _
  | txAck ok =>
    cases ok with
    | true =>
      obtain ⟨b, hb, rfl⟩ := txAckOk_next hx
      exact advanceFrame_tracks (hinv.withQueues s.rxQueue _ s.inputs)
        (h.withQueues s.rxQueue _ s.inputs) hb
    | false =>
      obtain ⟨hp, rfl⟩ := txAckFail_next hx
      exact .of_idle rfl (hinv.decSt_idle hp)
  | rxOffer b => exact decodeByte_tracks hinv h (rxOffer_next hx).2
  | rxNone =>
    obtain ⟨_, ⟨hd, rfl⟩ | ⟨_, rfl⟩⟩ := rxNone_next hx
    · exact h.enterSettle hd s.tPrev
    · exact h
  | tick => cases hx; exact h
  | reset => cases hx; exact .of_idle rfl rfl

/-- Settles O53: the arrival of bytes, time and the event's own rule each keep ACC on the frame (R91); the
invariant keeps the engines apart and names the byte on the port. -/
theorem everyStepKeepsTheChecksum : Obligations.EveryStepKeepsTheChecksum := by
  intro s t hinv h hstep
  rcases step_cases hstep with ⟨_, rfl⟩ | ⟨x, rest, _, ⟨_, rfl⟩ | ⟨_, ht, hx⟩⟩
  · exact h
  · exact .of_idle rfl rfl
  · exact handle_tracks ((hinv.withQueues _ s.txSent rest).advanceTime ht)
      ((h.withQueues _ s.txSent rest).advanceTime x.time) hx

end Sys2Proof.Machine
end

section
/-! The Device Identity and the value buffer (spec/41_encoder.md R120 to R124): the words and every arm of
ADDR_WR, ADDR_RD, VAL_CLR and VAL_PUSH; and decimal rendering (R126). -/

namespace Sys2Proof.Machine

variable {s : State}

/-! ### ADDR_WR and ADDR_RD -/

/-- ADDR_WR's operands in the terms of R120. -/
theorem isAddress_iff {n : Byte} : isAddress n = true ↔ 1 ≤ n.toNat ∧ n.toNat ≤ 99 := by
  simp [isAddress]

theorem isAddress_eq_false {n : Byte} : isAddress n = false ↔ n.toNat = 0 ∨ 100 ≤ n.toNat := by
  rw [← Bool.not_eq_true, isAddress_iff]
  omega

theorem exec_addrWr_busy (n : Byte) (h : anyBusy s = true) :
    exec (.addrWr n) s = .next (refuse .busy s) := if_pos h

theorem exec_addrWr_badOperand {n : Byte} (h : anyBusy s = false) (hn : isAddress n = false) :
    exec (.addrWr n) s = .next (refuse .badOperand s) := by
  simp [exec, execAddrWr, h, hn]

theorem exec_addrWr_accepted {n : Byte} (h : anyBusy s = false) (hn : isAddress n = true) :
    exec (.addrWr n) s = .next (accept 0 { s with addr := n.setWidth 7 }) := by
  simp [exec, execAddrWr, h, hn]

/-- Settles O15: OP 4 is read in the byte format, and a legal address fits ADDR. -/
theorem addrWrCommand : Obligations.AddrWrCommand := by
  refine ⟨operandWords_of_byteCommand (op := 4) fun w hw => by simp [decode, hw], fun n s =>
    ⟨fun he hd hlo hhi => ?_, fun he hd hn => ?_, fun hbusy => ?_⟩⟩
  · have haddr := isAddress_iff.mpr ⟨hlo, hhi⟩
    exact ⟨n.setWidth 7, setWidth_address haddr,
      exec_addrWr_accepted (anyBusy_eq_false.mpr ⟨he, hd⟩) haddr⟩
  · exact exec_addrWr_badOperand (anyBusy_eq_false.mpr ⟨he, hd⟩) (isAddress_eq_false.mpr hn)
  · exact exec_addrWr_busy n (anyBusy_eq_true.mpr hbusy)

/-- Settles O16: OP 5 is read in the format without operand, and ADDR's seven bits fit the response. -/
theorem addrRdCommand : Obligations.AddrRdCommand :=
  ⟨onlyWord_of_bareCommand (op := 5) fun w hw => by simp [decode, hw],
    fun s => ⟨s.addr.setWidth 8, BitVec.toNat_setWidth_of_le (by decide), rfl⟩⟩

/-! ### VAL_CLR and VAL_PUSH -/

theorem exec_valClr_busy (h : encBusy s = true) : exec .valClr s = .next (refuse .busy s) := if_pos h

/-- Settles O17: OP 6 is read in the format without operand, and only the encoder blocks the command. -/
theorem valClrCommand : Obligations.ValClrCommand :=
  ⟨onlyWord_of_bareCommand (op := 6) fun w hw => by simp [decode, hw],
    fun _ => ⟨fun he => exec_valClr_accepted (encBusy_eq_false.mpr he),
      fun hbusy => exec_valClr_busy (encBusy_eq_true.mpr hbusy)⟩⟩

/-- VAL_PUSH's operands in the terms of R124. -/
theorem isDigit_iff {c : Byte} : isDigit c = true ↔ 0x30 ≤ c.toNat ∧ c.toNat ≤ 0x39 := by
  simp [isDigit]

theorem isDigit_eq_false {c : Byte} : isDigit c = false ↔ c.toNat < 0x30 ∨ 0x39 < c.toNat := by
  rw [← Bool.not_eq_true, isDigit_iff]
  omega

theorem exec_valPush_busy (c : Byte) (h : encBusy s = true) :
    exec (.valPush c) s = .next (refuse .busy s) := if_pos h

theorem exec_valPush_badOperand {c : Byte} (h : encBusy s = false) (hc : isDigit c = false) :
    exec (.valPush c) s = .next (refuse .badOperand s) := by
  simp [exec, execValPush, h, hc]

theorem exec_valPush_full {c : Byte} (h : encBusy s = false) (hc : isDigit c = true)
    (hfull : s.vlen = s.params.valueMax) : exec (.valPush c) s = .next (refuse .bufFull s) := by
  simp [exec, execValPush, h, hc, hfull]

/-- Settles O18: OP 7 is read in the byte format, and the buffer write touches one entry. -/
theorem valPushCommand : Obligations.ValPushCommand := by
  refine ⟨operandWords_of_byteCommand (op := 7) fun w hw => by simp [decode, hw], fun c s =>
    ⟨fun he hlo hhi hlt => ?_, fun he hlo hhi hfull => ?_, fun he hc => ?_, fun hbusy => ?_⟩⟩
  · exact ⟨s.vbuf.write s.vlen c, s.vbuf.read_write_same s.vlen c,
      fun _ hne => s.vbuf.read_write_other c hne,
      exec_valPush_accepted (encBusy_eq_false.mpr he) (isDigit_iff.mpr ⟨hlo, hhi⟩) hlt⟩
  · exact exec_valPush_full (encBusy_eq_false.mpr he) (isDigit_iff.mpr ⟨hlo, hhi⟩) hfull
  · exact exec_valPush_badOperand (encBusy_eq_false.mpr he) (isDigit_eq_false.mpr hc)
  · exact exec_valPush_busy c (encBusy_eq_true.mpr hbusy)

/-! ### Decimal rendering -/

/-- The number that ASCII digits stand for, most significant first. -/
def decimalValue (ds : List Byte) : Nat := ds.foldl (fun v b => v * 10 + (b.toNat - 0x30)) 0

/-- A digit at the end counts once, and what stands before it ten times. -/
theorem decimalValue_concat_digitChar (ds : List Byte) {d : Nat} (hd : d < 10) :
    decimalValue (ds ++ [digitChar d]) = decimalValue ds * 10 + d := by
  simp [decimalValue, digitChar_toNat hd]

/-- The digits stand for the number, when `fuel` suffices to write it. -/
theorem decimalValue_renderDigits {fuel n : Nat} (h : n ≤ fuel) :
    decimalValue (renderDigits fuel n) = n := by
  induction fuel generalizing n with
  | zero =>
    obtain rfl : n = 0 := by omega
    rfl
  | succ fuel ih =>
    unfold renderDigits
    split
    · next hn => simpa [decimalValue] using decimalValue_concat_digitChar [] hn
    · rw [decimalValue_concat_digitChar _ (Nat.mod_lt n (by decide)), ih (by omega)]
      omega

/-- The first digit written is the leading one of the number, and not zero. -/
theorem renderDigits_leading {fuel n : Nat} (h : n ≤ fuel) (hn : n ≠ 0) :
    ∃ d rest, renderDigits fuel n = digitChar d :: rest ∧ d ≠ 0 ∧ d < 10 := by
  induction fuel generalizing n with
  | zero => omega
  | succ fuel ih =>
    unfold renderDigits
    split
    · next hlt => exact ⟨n, [], rfl, hn, hlt⟩
    · obtain ⟨d, rest, e, hd, hlt⟩ := ih (n := n / 10) (by omega) (by omega)
      exact ⟨d, rest ++ [digitChar (n % 10)], by rw [e, List.cons_append], hd, hlt⟩

/-- Settles O19: `renderDec` writes with fuel enough for the whole number. -/
theorem renderDecIsDecimal : Obligations.RenderDecIsDecimal := by
  refine fun n => ⟨decimalValue_renderDigits le_rfl, fun b => isDigit_of_mem_renderDigits,
    fun hn b hb => ?_, fun hn => hn ▸ rfl⟩
  obtain ⟨d, rest, e, hd, hlt⟩ := renderDigits_leading (le_refl n) hn
  obtain rfl : digitChar d = b := by simpa [renderDec, e] using hb
  rw [digitChar_toNat hlt]
  omega

end Sys2Proof.Machine
end

section
/-! ENC_SEND (spec/41_encoder.md R130): its words and every arm. -/

namespace Sys2Proof.Machine

variable {s : State}

/-- The word of ENC_SEND as a number (R74). -/
theorem encode_encSend (w : Bool) (c : Byte) :
    encode (.encSend w c) = BitVec.ofNat 16 ((if w then 0x8100 else 0x8000) + c.toNat) := by
  have hc := c.isLt
  apply BitVec.eq_of_toNat_eq
  rw [encode, wordOf_toNat, BitVec.toNat_ofNat]
  cases w <;> simp <;> omega

/-- A word of OP 8 with a reserved bit of FL set does not decode (R73, R74). -/
theorem decode_reserved_encSend {v : Word} (hop : v.toNat / 4096 = 8) (hfl : 2 ≤ v.toNat / 256 % 16) :
    decode v = .error .reservedField := by
  rw [← opField_toNat] at hop
  rw [← flField_toNat] at hfl
  rcases sendCommand_cases v with ⟨hlt, _⟩ | ⟨_, hbad⟩
  · omega
  · simp only [decode, hop, hbad]

/-- ENC_SEND's operands in the terms of R130. -/
theorem isLowercase_iff {c : Byte} : isLowercase c = true ↔ 0x61 ≤ c.toNat ∧ c.toNat ≤ 0x7A := by
  simp [isLowercase]

theorem isLowercase_eq_false {c : Byte} :
    isLowercase c = false ↔ c.toNat < 0x61 ∨ 0x7A < c.toNat := by
  rw [← Bool.not_eq_true, isLowercase_iff]
  omega

theorem exec_encSend_busy (w : Bool) (c : Byte) (h : anyBusy s = true) :
    exec (.encSend w c) s = .next (refuse .busy s) := if_pos h

theorem exec_encSend_badOperand (w : Bool) {c : Byte} (h : anyBusy s = false)
    (hc : isLowercase c = false) : exec (.encSend w c) s = .next (refuse .badOperand s) := by
  simp [exec, execEncSend, h, hc]

theorem exec_encSend_accepted (w : Bool) {c : Byte} (h : anyBusy s = false)
    (hc : isLowercase c = true) : exec (.encSend w c) s = .next (accept 0
      { s with encW := w, encCmd := c, acc := 0, encResult := .none, encPh := .body, encI := 0 }) := by
  simp [exec, execEncSend, h, hc]

/-- Settles O21: the words are the encoder's own, and the interlock comes before the operand. -/
theorem encSendCommand : Obligations.EncSendCommand := by
  refine ⟨fun w c => encode_encSend w c ▸ decode_encode _,
    fun _ hop hfl s => execWord_illegal (decode_reserved_encSend hop hfl) s, fun w c s =>
    ⟨fun he hd hlo hhi => ?_, fun he hd hc => ?_, fun hbusy => ?_⟩⟩
  · exact exec_encSend_accepted w (anyBusy_eq_false.mpr ⟨he, hd⟩) (isLowercase_iff.mpr ⟨hlo, hhi⟩)
  · exact exec_encSend_badOperand w (anyBusy_eq_false.mpr ⟨he, hd⟩) (isLowercase_eq_false.mpr hc)
  · exact exec_encSend_busy w c (anyBusy_eq_true.mpr hbusy)

end Sys2Proof.Machine
end

section
/-! The request's body (spec/41_encoder.md R131) and what one acknowledgement does in each phase of the
encoder (R132 to R135). -/

namespace Sys2Proof.Machine

variable {s : State}

/-! ### The body -/

/-- A body byte is what the transmit port offers at its index (R131). -/
theorem bodyByte_of_requestBody (h : StateInv s) {k : Nat} {b : Byte}
    (hb : (requestBody s)[k]? = some b) : bodyByte s k = .ok b := by
  have hk : k < bodyLength s := requestBody_length h ▸ (List.getElem?_eq_some_iff.mp hb).1
  obtain ⟨c, hc, hport⟩ := bodyByte_eq_requestBody h hk
  rwa [Option.some.inj (hb.symm.trans hc)]

/-- After the five fixed bytes comes the value (R131). -/
theorem requestBody_value (h : StateInv s) {i : Nat} (hi : i < s.vlen) :
    (requestBody s)[5 + i]? = s.vbuf.read i := by
  have hlen : (bodyHead s.addr s.encW s.encCmd).length = 5 := rfl
  rw [requestBody, List.getElem?_append_right (hlen ▸ Nat.le_add_right 5 i), hlen,
    Nat.add_sub_cancel_left, valueBytes_getElem? h hi]

/-- Settles O22: the five fixed bytes stand in `bodyHead`, and ADDR at most 99 has two digits (R122). -/
theorem bodyBytes : Obligations.BodyBytes := by
  intro s h
  obtain ⟨_, haddr⟩ := h.addr_range
  exact ⟨requestBody_length h, fun _ _ => bodyByte_of_requestBody h, rfl,
    ⟨_, _, rfl, rfl, digitChar_toNat (by omega), digitChar_toNat (Nat.mod_lt _ (by decide))⟩,
    rfl, rfl, fun _ => requestBody_value h⟩

/-! ### TX_ACK(ok) -/

/-- The byte on the port in BODY, without the invariant. -/
theorem txByte_of_bodyByte {b : Byte} (hp : s.encPh = .body) (hb : bodyByte s s.encI = .ok b) :
    txByte s = .ok (some b) := by
  simp only [txByte, hp, hb, Except.map]

/-- The byte on the port in TERM, without the invariant. -/
theorem txByte_of_termByte {b : Byte} (hp : s.encPh = .term)
    (hb : (termBytes s.params.txTerm)[s.encI]? = some b) : txByte s = .ok (some b) := by
  simp only [txByte, hp, hb]

theorem advanceFrame_body (b : Byte) (hp : s.encPh = .body) (hi : s.encI + 1 ≠ bodyLength s) :
    advanceFrame b s = { s with acc := accAdd s.acc b, encI := s.encI + 1 } := by
  simp only [advanceFrame, hp, hi, if_false]

theorem advanceFrame_bodyEnd (b : Byte) (hp : s.encPh = .body) (hi : s.encI + 1 = bodyLength s) :
    advanceFrame b s = { s with acc := accAdd s.acc b, encPh := .ck, encI := 0 } := by
  simp only [advanceFrame, hp, hi, if_true]

theorem advanceFrame_ck (b : Byte) (hp : s.encPh = .ck) :
    advanceFrame b s = { s with encPh := .term, encI := 0 } := by
  simp only [advanceFrame, hp]

theorem advanceFrame_term (b : Byte) (hp : s.encPh = .term)
    (hi : s.encI + 1 ≠ (termBytes s.params.txTerm).length) :
    advanceFrame b s = { s with encI := s.encI + 1 } := by
  simp only [advanceFrame, hp, hi, if_false]

theorem advanceFrame_termEnd (b : Byte) (hp : s.encPh = .term)
    (hi : s.encI + 1 = (termBytes s.params.txTerm).length) :
    advanceFrame b s = { s with encPh := .idle, encI := 0, encResult := .sent, vlen := 0 } := by
  simp only [advanceFrame, hp, hi, if_true]

/-- Settles O24: the port offers the body byte, and the encoder moves on after it. -/
theorem txAckOkInBody : Obligations.TxAckOkInBody := by
  intro s b hp hb
  have hack := txAckOk_offered (txByte_of_bodyByte hp hb)
  exact ⟨accAdd s.acc b, accAdd_toNat s.acc b,
    fun hi => hack.trans (congrArg _ (advanceFrame_body b hp hi)),
    fun hi => hack.trans (congrArg _ (advanceFrame_bodyEnd b hp hi))⟩

/-- Settles O25: in CK the port offers the checksum letter, in TERM the terminator byte. -/
theorem txAckOkAfterBody : Obligations.TxAckOkAfterBody := by
  refine fun s => ⟨fun hp => ?_, fun hp b hb => ?_⟩
  · exact ⟨ckChar s.acc, ckChar_toNat s.acc,
      (txAckOk_offered (txByte_ck hp)).trans (congrArg _ (advanceFrame_ck _ hp))⟩
  · have hack := txAckOk_offered (txByte_of_termByte hp hb)
    exact ⟨fun hi => hack.trans (congrArg _ (advanceFrame_term b hp hi)),
      fun hi => hack.trans (congrArg _ (advanceFrame_termEnd b hp hi))⟩

/-! ### TX_ACK(fail) -/

theorem txAckFail_busy (hp : s.encPh ≠ .idle) : txAckFail s = .next (failFrame s) :=
  if_pos (encBusy_eq_true.mpr hp)

theorem txAckFail_idle (hp : s.encPh = .idle) : txAckFail s = .refused .ackWithoutByte :=
  if_neg (by simp [encBusy, hp])

/-- The free value of a failure in BODY lies in ACC's range (R135). -/
theorem accAfterFailure_body (hp : s.encPh = .body) : (accAfterFailure s).toNat ≤ 25 := by
  have := (Config.freeAcc s.draws).isLt
  rw [accAfterFailure, if_pos hp, BitVec.toNat_ofNat]
  omega

/-- A failure in BODY draws ACC anew (R135). -/
theorem failFrame_body (hp : s.encPh = .body) : failFrame s =
    { s with
      acc := accAfterFailure s, draws := s.draws + 1
      encPh := .idle, encI := 0, encResult := .txError, vlen := 0 } := by
  rw [failFrame, if_pos hp]

/-- A failure after the body keeps ACC (R135). -/
theorem failFrame_afterBody (hp : s.encPh ≠ .body) :
    failFrame s = { s with encPh := .idle, encI := 0, encResult := .txError, vlen := 0 } := by
  rw [failFrame, accAfterFailure, if_neg hp, if_neg hp]

/-- Settles O26: the frame is abandoned in every sending phase, and ACC is drawn in BODY only. -/
theorem txAckFailAbandonsTheFrame : Obligations.TxAckFailAbandonsTheFrame := by
  refine fun s => ⟨fun hp => ?_, fun hp => ?_, txAckFail_idle⟩
  · exact ⟨accAfterFailure s, accAfterFailure_body hp,
      (txAckFail_busy (by simp [hp])).trans (congrArg _ (failFrame_body hp))⟩
  · have hidle : s.encPh ≠ .idle := by rcases hp with hp | hp <;> simp [hp]
    have hbody : s.encPh ≠ .body := by rcases hp with hp | hp <;> simp [hp]
    exact (txAckFail_busy hidle).trans (congrArg _ (failFrame_afterBody hbody))

end Sys2Proof.Machine
end

section
/-! The whole frame of one ENC_SEND (spec/41_encoder.md R136). The encoder's phase and index are one position
in the frame: the port offers the byte at it, and each TX_ACK(ok) moves it on by one. -/

namespace Sys2Proof.Machine

variable {s t : State}

/-- The frame being sent (R136). -/
def requestFrame (s : State) : List Byte := frameOf (requestBody s) s.params.txTerm

/-- The bytes of the frame acknowledged so far (R26). -/
def sentCount (s : State) : Nat :=
  match s.encPh with
  | .idle => 0
  | .body => s.encI
  | .ck => bodyLength s
  | .term => bodyLength s + 1 + s.encI

theorem sentCount_body (hp : s.encPh = .body) : sentCount s = s.encI := by simp only [sentCount, hp]

theorem sentCount_ck (hp : s.encPh = .ck) : sentCount s = bodyLength s := by simp only [sentCount, hp]

theorem sentCount_term (hp : s.encPh = .term) : sentCount s = bodyLength s + 1 + s.encI := by
  simp only [sentCount, hp]

theorem requestFrame_length (h : StateInv s) :
    (requestFrame s).length = bodyLength s + 1 + (termBytes s.params.txTerm).length := by
  simp only [requestFrame, frameOf, List.length_append, requestBody_length h, List.length_singleton]

/-- The port offers the frame's byte at the position (R40, R136). -/
theorem txByte_requestFrame (hinv : StateInv s) (h : AccTracksFrame s) (hp : s.encPh ≠ .idle) :
    ∃ b, (requestFrame s)[sentCount s]? = some b ∧ txByte s = .ok (some b) := by
  have hlen := requestBody_length hinv
  have hbody : (requestBody s ++ [ckChar (accOf (requestBody s))]).length = bodyLength s + 1 := by
    rw [List.length_append, hlen, List.length_singleton]
  unfold requestFrame frameOf
  cases hph : s.encPh with
  | idle => exact absurd hph hp
  | body =>
    obtain ⟨b, hb, hport⟩ := txByte_body hinv hph
    have hlt := hinv.encI_body hph
    refine ⟨b, ?_, hport⟩
    rw [sentCount_body hph, List.getElem?_append_left (by omega),
      List.getElem?_append_left (by omega), hb]
  | ck =>
    refine ⟨_, ?_, txByte_ck hph⟩
    rw [sentCount_ck hph, List.getElem?_append_left (by omega), ← hlen, List.getElem?_concat_length,
      h.sent_body (.inl hph)]
  | term =>
    obtain ⟨b, hb, hport⟩ := txByte_term hinv hph
    refine ⟨b, ?_, hport⟩
    rw [sentCount_term hph, ← hbody, List.getElem?_append_right (Nat.le_add_right _ _),
      Nat.add_sub_cancel_left, hb]

/-- Before the frame's last byte the encoder stays in the same frame, one position on (R132 to R134). -/
theorem advanceFrame_onward (hinv : StateInv s) (hp : s.encPh ≠ .idle) (b : Byte)
    (hmore : sentCount s + 1 < (requestFrame s).length) :
    (advanceFrame b s).encPh ≠ .idle ∧ requestBody (advanceFrame b s) = requestBody s ∧
      sentCount (advanceFrame b s) = sentCount s + 1 := by
  rw [requestFrame_length hinv] at hmore
  rcases advanceFrame_cases b s with
    ⟨hph, _⟩ | ⟨hph, _, e⟩ | ⟨hph, hlast, e⟩ | ⟨hph, e⟩ | ⟨hph, _, e⟩ | ⟨hph, hlast, _⟩
  case inl => exact absurd hph hp
  case inr.inr.inr.inr.inr =>
    rw [sentCount_term hph] at hmore
    omega
  all_goals
    rw [e]
    refine ⟨by simp [hph], rfl, ?_⟩
  · simp only [sentCount, hph]
  · simp only [sentCount, hph, hlast]; rfl
  · simp only [sentCount, hph]; rfl
  · simp only [sentCount, hph]; rfl

/-- The frame's last byte is the terminator's last, and ends the frame (R134). -/
theorem advanceFrame_last (hinv : StateInv s) (hp : s.encPh ≠ .idle) (b : Byte)
    (hlast : sentCount s + 1 = (requestFrame s).length) : s.encPh = .term ∧
      advanceFrame b s = { s with encPh := .idle, encI := 0, encResult := .sent, vlen := 0 } := by
  have hterm := termBytes_length_pos s.params.txTerm
  rw [requestFrame_length hinv] at hlast
  cases hph : s.encPh with
  | idle => exact absurd hph hp
  | body =>
    have hlt := hinv.encI_body hph
    rw [sentCount_body hph] at hlast
    omega
  | ck =>
    rw [sentCount_ck hph] at hlast
    omega
  | term =>
    rw [sentCount_term hph] at hlast
    exact ⟨rfl, advanceFrame_termEnd b hph (by omega)⟩

@[simp] theorem advanceFrame_tPrev (b : Byte) (s : State) : (advanceFrame b s).tPrev = s.tPrev := by
  rcases advanceFrame_cases b s with
    ⟨_, e⟩ | ⟨_, _, e⟩ | ⟨_, _, e⟩ | ⟨_, e⟩ | ⟨_, _, e⟩ | ⟨_, _, e⟩ <;> rw [e]

/-- With the decoder idle, time passes alone (R160). -/
theorem advanceTime_idle (hd : s.decSt = .idle) (d : Nat) : advanceTime d s = { s with tPrev := d } := by
  simp only [advanceTime, timerPhase, hd]

theorem arrive_nil (s : State) : arrive [] s = s := by simp only [arrive, List.append_nil]

/-- The state after an acknowledgement at time `d`: it is taken from the inputs, the byte `b` has joined the
accepted ones, and the encoder has moved on. -/
def acknowledged (s : State) (d : Nat) (rest : List Input) (b : Byte) : State :=
  advanceFrame b { s with tPrev := d, inputs := rest, txSent := s.txSent ++ [b] }

section

variable {d : Nat} {rest : List Input} {b : Byte}

theorem acknowledged_tPrev : (acknowledged s d rest b).tPrev = d := advanceFrame_tPrev b _

theorem acknowledged_txSent : (acknowledged s d rest b).txSent = s.txSent ++ [b] :=
  (transport_eq_iff.mp (advanceFrame_transport b _)).2.1

theorem acknowledged_inputs : (acknowledged s d rest b).inputs = rest :=
  (transport_eq_iff.mp (advanceFrame_transport b _)).2.2

/-- A step with an acknowledgement next, while the encoder runs (R91, R66). -/
theorem step_txAck (hinv : StateInv s) (hp : s.encPh ≠ .idle)
    (hi : s.inputs = ⟨d, [], .txAck true⟩ :: rest) (ht : s.tPrev ≤ d)
    (hb : txByte s = .ok (some b)) : step s = .next (acknowledged s d rest b) := by
  have htime : advanceTime d (arrive [] { s with inputs := rest }) =
      { s with tPrev := d, inputs := rest } := by
    rw [arrive_nil, advanceTime_idle (s := { s with inputs := rest }) (hinv.decSt_idle hp)]
  rw [step_cons hi, processInput_onTime (s := { s with inputs := rest }) (by simp) ht, htime]
  exact txAckOk_offered (s := { s with tPrev := d, inputs := rest }) hb

/-- The invariant in the state the encoder moves on from. -/
theorem StateInv.beforeAdvance (h : StateInv s) (hp : s.encPh ≠ .idle) (ht : s.tPrev ≤ d) :
    StateInv { s with tPrev := d, inputs := rest, txSent := s.txSent ++ [b] } :=
  (h.setTime_idle ht (h.decSt_idle hp)).withQueues s.rxQueue (s.txSent ++ [b]) rest

/-- Before the last byte an acknowledgement stays in the frame, one position on. -/
theorem acknowledged_onward (hinv : StateInv s) (hp : s.encPh ≠ .idle) (ht : s.tPrev ≤ d)
    (hmore : sentCount s + 1 < (requestFrame s).length) :
    (acknowledged s d rest b).encPh ≠ .idle ∧
      requestBody (acknowledged s d rest b) = requestBody s ∧
      requestFrame (acknowledged s d rest b) = requestFrame s ∧
      sentCount (acknowledged s d rest b) = sentCount s + 1 := by
  obtain ⟨hp', hbody, hcount⟩ := advanceFrame_onward (hinv.beforeAdvance hp ht) hp b hmore
  have hparams : (acknowledged s d rest b).params = s.params := advanceFrame_params b _
  refine ⟨hp', hbody, ?_, hcount⟩
  rw [requestFrame, hparams]
  exact congrArg (frameOf · s.params.txTerm) hbody

end

/-- What the rest of the frame of `s`, acknowledged byte by byte, has led to in `t` (R136). -/
structure FrameSent (s t : State) : Prop where
  txSent : t.txSent = s.txSent ++ (requestFrame s).drop (sentCount s)
  encPh : t.encPh = .idle
  encResult : t.encResult = .sent
  vlen : t.vlen = 0
  acc : t.acc = accOf (requestBody s)

/-- The frame's last byte completes it. -/
theorem frameSent_of_last (hinv : StateInv s) (h : AccTracksFrame s) (hp : s.encPh ≠ .idle) {d : Nat}
    (ht : s.tPrev ≤ d) {rest : List Input} {b : Byte} (hb : (requestFrame s)[sentCount s]? = some b)
    (hlast : sentCount s + 1 = (requestFrame s).length) :
    FrameSent s (acknowledged s d rest b) := by
  have hleft : (requestFrame s).drop (sentCount s) = [b] := by
    rw [List.drop_eq_getElem?_toList_append, hb, List.drop_of_length_le hlast.ge]
    rfl
  obtain ⟨hterm, e⟩ := advanceFrame_last (hinv.beforeAdvance hp ht) hp b hlast
  rw [acknowledged, e]
  exact ⟨congrArg (s.txSent ++ ·) hleft.symm, rfl, rfl, rfl, h.sent_body (.inr hterm)⟩

/-- Any byte before it stands in front of what is sent after it. -/
theorem frameSent_of_onward (hinv : StateInv s) (hp : s.encPh ≠ .idle) {d : Nat}
    (ht : s.tPrev ≤ d) {rest : List Input} {b : Byte} (hb : (requestFrame s)[sentCount s]? = some b)
    (hmore : sentCount s + 1 < (requestFrame s).length)
    (h : FrameSent (acknowledged s d rest b) t) : FrameSent s t := by
  have hleft : (requestFrame s).drop (sentCount s) = b :: (requestFrame s).drop (sentCount s + 1) := by
    rw [List.drop_eq_getElem?_toList_append, hb]
    rfl
  obtain ⟨_, hbody, hframe, hcount⟩ := acknowledged_onward hinv hp ht hmore
  refine ⟨?_, h.encPh, h.encResult, h.vlen, h.acc.trans (congrArg accOf hbody)⟩
  rw [h.txSent, hframe, hcount, acknowledged_txSent, hleft, List.append_assoc, List.singleton_append]

/-- As many acknowledgements as bytes are left send the rest of the frame. -/
theorem run_acks_frameSent {ts : List Nat} (hinv : StateInv s) (h : AccTracksFrame s)
    (hp : s.encPh ≠ .idle) (hin : s.inputs = acks ts) (hrise : risesFrom s.tPrev ts)
    (hlen : sentCount s + ts.length = (requestFrame s).length) :
    ∃ t, run ts.length s = .next t ∧ FrameSent s t := by
  induction ts generalizing s with
  | nil =>
    obtain ⟨b, hb, _⟩ := txByte_requestFrame hinv h hp
    exact absurd hlen (List.getElem?_eq_some_iff.mp hb).1.ne
  | cons d ts ih =>
    obtain ⟨b, hb, hport⟩ := txByte_requestFrame hinv h hp
    obtain ⟨ht, hrise'⟩ := hrise
    have hstep : step s = .next (acknowledged s d (acks ts) b) := step_txAck hinv hp hin ht hport
    rw [List.length_cons] at hlen ⊢
    rw [run_succ hstep]
    rcases Nat.eq_zero_or_pos ts.length with hnone | hsome
    · rw [hnone] at hlen ⊢
      exact ⟨_, rfl, frameSent_of_last hinv h hp ht hb hlen⟩
    · have hmore : sentCount s + 1 < (requestFrame s).length := by omega
      obtain ⟨hp', _, hframe, hcount⟩ := acknowledged_onward (b := b) (rest := acks ts) hinv hp ht hmore
      obtain ⟨t, hrun, hsent⟩ := ih (everyStepKeepsTheInvariant _ _ hinv hstep)
        (everyStepKeepsTheChecksum _ _ hinv h hstep) hp' acknowledged_inputs
        (acknowledged_tPrev.symm ▸ hrise') (by rw [hframe, hcount]; omega)
      exact ⟨t, hrun, frameSent_of_onward hinv hp ht hb hmore hsent⟩

/-- Settles O27: at the first byte of the body the whole frame is still to be sent. -/
theorem encoderSendsExactlyTheFrame : Obligations.EncoderSendsExactlyTheFrame := by
  intro s ts hinv hp hi ha hin hrise hlen
  have hbusy : s.encPh ≠ .idle := by simp [hp]
  have hzero : sentCount s = 0 := (sentCount_body hp).trans hi
  obtain ⟨t, hrun, hsent⟩ := run_acks_frameSent hinv
    (.of_frameStart (hinv.decSt_idle hbusy) hp hi ha) hbusy hin hrise
    (by rw [hzero, requestFrame_length hinv, bodyLength]; omega)
  have hall := hsent.txSent
  rw [hzero, List.drop_zero] at hall
  exact ⟨t, hrun, hall, hsent.encPh, hsent.encResult, hsent.vlen, hsent.acc⟩

end Sys2Proof.Machine
end

section
/-! Time (spec/42_decoder.md R160, R163, spec/30_encoding.md R91): what each timer does once it has expired,
and the state in which an event's own rule runs. -/

namespace Sys2Proof.Machine

variable {s t : State} {d : Nat}

/-! ### The timers -/

/-- Without a settle delay the frame is published at once (R163). -/
theorem enterSettle_now (h : s.params.settleDelay = 0) (d : Nat) :
    enterSettle d s = { s with decSt := .idle, setT0 := d, decResult := .frameOk } := if_pos h

/-- With a settle delay its timer starts (R163). -/
theorem enterSettle_delayed (h : s.params.settleDelay ≠ 0) (d : Nat) :
    enterSettle d s = { s with decSt := .settle, setT0 := d } := if_neg h

theorem reading_enterSettle (d : Nat) (s : State) : reading (enterSettle d s) = false := by
  rcases enterSettle_cases d s with ⟨_, e⟩ | ⟨_, e⟩ <;> rw [e] <;> rfl

/-- A reading state at or after its deadline ends in TIMEOUT (R160). -/
theorem advanceTime_timeout (hr : reading s = true) (hx : s.params.charTimeout ≤ d - s.lastT) :
    advanceTime d s = { s with tPrev := d, decSt := .idle, decResult := .timeout } := by
  rcases reading_eq_true.mp hr with hd | hd | hd | hd <;>
    simp [advanceTime, timerPhase, charExpired, finish, hd, hx]

/-- SWALLOW at or after its deadline ends the frame (R160). -/
theorem advanceTime_swallowed (hd : s.decSt = .swallow) (hx : s.params.charTimeout ≤ d - s.lastT) :
    advanceTime d s = enterSettle d { s with tPrev := d } := by
  simp [advanceTime, timerPhase, charExpired, hd, hx]

/-- SETTLE publishes the frame once the delay is over (R160). -/
theorem advanceTime_settled (hd : s.decSt = .settle) (hx : s.params.settleDelay ≤ d - s.setT0) :
    advanceTime d s = { s with tPrev := d, decSt := .idle, decResult := .frameOk } := by
  simp [advanceTime, timerPhase, settleExpired, finish, hd, hx]

/-- Below every running deadline only the time moves (R160). -/
theorem advanceTime_waiting
    (hchar : reading s = true ∨ s.decSt = .swallow → d - s.lastT < s.params.charTimeout)
    (hsettle : s.decSt = .settle → d - s.setT0 < s.params.settleDelay) :
    advanceTime d s = { s with tPrev := d } :=
  timerPhase_waiting (s := { s with tPrev := d }) hchar hsettle

/-- While the per-character timer runs no other deadline counts. -/
theorem advanceTime_receiving (hr : reading s = true ∨ s.decSt = .swallow)
    (hx : d - s.lastT < s.params.charTimeout) : advanceTime d s = { s with tPrev := d } :=
  advanceTime_waiting (fun _ => hx) fun hd => by simp [reading, hd] at hr

/-- A decoder that still reads after the timer phase was reading before it, below its deadline. -/
theorem reading_of_advanceTime (h : reading (advanceTime d s) = true) :
    reading s = true ∧ d - s.lastT < s.params.charTimeout := by
  rcases advanceTime_cases d s with ⟨hchar, _, e⟩ | ⟨_, e⟩ | ⟨_, e⟩ | ⟨_, e⟩ <;> rw [e] at h
  · exact ⟨h, hchar (.inl h)⟩
  · simp [reading] at h
  · simp [reading_enterSettle] at h
  · simp [reading] at h

/-- Settles O8: one equation per state and timer. -/
theorem timerPhaseRules : Obligations.TimerPhaseRules := by
  refine fun s d => ⟨fun hd => advanceTime_idle hd d, advanceTime_timeout, advanceTime_receiving,
    fun hd hx hdelay => ?_, fun hd hx hdelay => ?_, advanceTime_settled, fun hd hx => ?_⟩
  · rw [advanceTime_swallowed hd hx]
    exact enterSettle_delayed (s := { s with tPrev := d }) hdelay.ne' d
  · rw [advanceTime_swallowed hd hx]
    exact enterSettle_now (s := { s with tPrev := d }) hdelay d
  · exact advanceTime_waiting (fun hr => by simp [reading, hd] at hr) fun _ => hx

/-! ### The state at an event -/

/-- The state in which the own rule of the input `x` runs: its bytes have arrived, and time has advanced
(R91 steps 2 and 3). -/
def atEvent (x : Input) (rest : List Input) (s : State) : State :=
  advanceTime x.time (arrive x.arrived { s with inputs := rest })

section

variable {x : Input} {rest : List Input}

@[simp] theorem atEvent_params : (atEvent x rest s).params = s.params := advanceTime_params _ _
@[simp] theorem atEvent_encPh : (atEvent x rest s).encPh = s.encPh := advanceTime_encPh _ _
@[simp] theorem atEvent_lastT : (atEvent x rest s).lastT = s.lastT := advanceTime_lastT _ _
@[simp] theorem atEvent_tPrev : (atEvent x rest s).tPrev = x.time := advanceTime_tPrev _ _
@[simp] theorem atEvent_rxQueue : (atEvent x rest s).rxQueue = s.rxQueue ++ x.arrived :=
  advanceTime_rxQueue _ _

theorem StateInv.atEvent (h : StateInv s) (ht : s.tPrev ≤ x.time) : StateInv (atEvent x rest s) :=
  (h.withQueues _ s.txSent rest).advanceTime ht

/-- An input on time is processed in the state at the event (R91). -/
theorem step_onTime (hi : s.inputs = x :: rest) (hne : x.event ≠ .reset) (ht : s.tPrev ≤ x.time) :
    step s = handle x.event (atEvent x rest s) :=
  (step_cons hi).trans (processInput_onTime (s := { s with inputs := rest }) hne ht)

/-- All a step with the input `x` next can do when it answers a next state (R91). -/
theorem step_cons_cases (hi : s.inputs = x :: rest) (h : step s = .next t) :
    (x.event = .reset ∧ t = hardReset (arrive x.arrived { s with inputs := rest })) ∨
    (x.event ≠ .reset ∧ s.tPrev ≤ x.time ∧ handle x.event (atEvent x rest s) = .next t) := by
  rcases step_cases h with ⟨hnil, _⟩ | ⟨y, rest', hi', hy⟩
  · simp [hnil] at hi
  · obtain ⟨rfl, rfl⟩ : y = x ∧ rest' = rest := by simpa [hi'] using hi
    exact hy

/-- While the per-character timer runs, an event below its deadline finds the same state, with the time and
the transport moved on. -/
theorem atEvent_receiving (hr : reading s = true ∨ s.decSt = .swallow)
    (hx : x.time - s.lastT < s.params.charTimeout) : atEvent x rest s =
      { s with tPrev := x.time, rxQueue := s.rxQueue ++ x.arrived, inputs := rest } :=
  advanceTime_receiving (s := arrive x.arrived { s with inputs := rest }) hr hx

/-- A decoder that still reads at the event was reading before it, below its deadline, and has taken no
byte in between. -/
theorem atEvent_of_reading (h : reading (atEvent x rest s) = true) :
    reading s = true ∧ x.time < s.lastT + s.params.charTimeout ∧
      bytesTaken (atEvent x rest s) = bytesTaken s := by
  obtain ⟨hr, hx⟩ : reading s = true ∧ x.time - s.lastT < s.params.charTimeout :=
    reading_of_advanceTime (s := arrive x.arrived { s with inputs := rest }) h
  refine ⟨hr, by omega, ?_⟩
  rw [atEvent_receiving (.inl hr) hx]
  rfl

/-- The timer phase looks at neither the receive queue nor the inputs to come. -/
theorem atEvent_decSt : (atEvent x rest s).decSt = (advanceTime x.time s).decSt := by
  cases hd : s.decSt <;> simp only [atEvent, advanceTime, timerPhase, arrive, hd]
  case swallow =>
    exact rel_ite (R := fun a b : State => a.decSt = b.decSt)
      (fun _ => rel_ite (R := fun a b : State => a.decSt = b.decSt) (fun _ => rfl) fun _ => rfl)
      fun _ => rfl
  all_goals exact rel_ite (R := fun a b : State => a.decSt = b.decSt) (fun _ => rfl) fun _ => rfl

theorem anyBusy_atEvent : anyBusy (atEvent x rest s) = anyBusy (advanceTime x.time s) := by
  simp [anyBusy, encBusy, decBusy, atEvent_decSt]

end

end Sys2Proof.Machine
end

section
/-! One attempt of the frame decoder (spec/42_decoder.md) through every part of a step: which events touch
the registers an attempt is made of, and how. -/

namespace Sys2Proof.Machine

variable {s t : State}

/-! ### The registers of an attempt -/

/-- What an attempt is made of beside the payload: its state and result, its counts, its timer, and the
time it has reached. -/
def attempt (s : State) : DecState × DecResult × Nat × Nat × Nat × Nat :=
  (s.decSt, s.decResult, s.junk, s.plen, s.lastT, s.tPrev)

theorem attempt_eq_iff : attempt t = attempt s ↔
    t.decSt = s.decSt ∧ t.decResult = s.decResult ∧ t.junk = s.junk ∧ t.plen = s.plen ∧
      t.lastT = s.lastT ∧ t.tPrev = s.tPrev := by
  simp [attempt]

theorem reading_congr (h : t.decSt = s.decSt) : reading t = reading s := by simp only [reading, h]

theorem bytesTaken_congr (hd : t.decSt = s.decSt) (hj : t.junk = s.junk) (hp : t.plen = s.plen) :
    bytesTaken t = bytesTaken s := by simp only [bytesTaken, hd, hj, hp]

/-- The state an accepted DEC_START leads to (R150). -/
def attemptStarted (s : State) : State :=
  accept 0 { s with decSt := .seek, junk := 0, plen := 0, decResult := .none, lastT := s.tPrev }

/-- Of the commands only DEC_START touches an attempt, and only where it begins one (R150, R250). -/
theorem exec_attempt {i : Instr} (h : exec i s = .next t) :
    attempt t = attempt s ∨ (i = .decStart ∧ anyBusy s = false ∧ t = attemptStarted s) := by
  cases i with
  | decStart =>
    rcases execDecStart_next h with ⟨_, rfl⟩ | ⟨hidle, rfl⟩
    · exact .inl rfl
    · exact .inr ⟨rfl, hidle, rfl⟩
  | nop | accRead | addrRd | statRd | plenRd | errcRd => cases h; exact .inl rfl
  | accReset => rcases execAccReset_next h with ⟨_, rfl⟩ | ⟨_, rfl⟩ <;> exact .inl rfl
  | accAdd d => rcases execAccAdd_next h with ⟨_, rfl⟩ | ⟨_, rfl⟩ <;> exact .inl rfl
  | addrWr n => rcases execAddrWr_next h with ⟨_, rfl⟩ | ⟨_, _, rfl⟩ | ⟨_, _, rfl⟩ <;> exact .inl rfl
  | valClr => rcases execValClr_next h with ⟨_, rfl⟩ | ⟨_, rfl⟩ <;> exact .inl rfl
  | valPush c =>
    rcases execValPush_next h with ⟨_, rfl⟩ | ⟨_, _, rfl⟩ | ⟨_, _, _, rfl⟩ | ⟨_, _, _, rfl⟩ <;>
      exact .inl rfl
  | encSend w c =>
    rcases execEncSend_next h with ⟨_, rfl⟩ | ⟨_, _, rfl⟩ | ⟨_, _, rfl⟩ <;> exact .inl rfl
  | pbufRd k => rcases execPbufRd_next h with ⟨_, rfl⟩ | ⟨_, _, _, rfl⟩ <;> exact .inl rfl

/-- The encoder's advance touches no attempt. -/
theorem advanceFrame_attempt (b : Byte) (s : State) : attempt (advanceFrame b s) = attempt s := by
  rcases advanceFrame_cases b s with
    ⟨_, e⟩ | ⟨_, _, e⟩ | ⟨_, _, e⟩ | ⟨_, e⟩ | ⟨_, _, e⟩ | ⟨_, _, e⟩ <;> rw [e] <;> rfl

/-- All an event's own rule (R91 step 4) can do to an attempt, RESET excepted: nothing, and then only a
TX_ACK touches the transport; its beginning; a byte's step; or the end of SWALLOW at an empty queue. -/
theorem handle_attempt {e : Event} (he : e ≠ .reset) (h : handle e s = .next t) :
    (attempt t = attempt s ∧ transport t = transport s) ∨
    (attempt t = attempt s ∧ ∃ ok, e = .txAck ok ∧ s.encPh ≠ .idle) ∨
    (∃ w, e = .cmd w ∧ decode w = .ok .decStart ∧ anyBusy s = false ∧ t = attemptStarted s) ∨
    (∃ b, e = .rxOffer b ∧ s.rxQueue.head? = some b ∧ decodeByte b s = .next t) ∨
    (e = .rxNone ∧ s.decSt = .swallow ∧ t = enterSettle s.tPrev s) := by
  cases e with
  | cmd w =>
    rcases execWord_next h with ⟨i, hw, hi⟩ | ⟨_, _, rfl⟩
    · rcases exec_attempt hi with hsame | ⟨rfl, hidle, rfl⟩
      · exact .inl ⟨hsame, exec_transport hi⟩
      · exact .inr (.inr (.inl ⟨w, rfl, hw, hidle, rfl⟩))
    · exact .inl ⟨rfl, rfl⟩
  | txAck ok =>
    cases ok with
    | true =>
      obtain ⟨b, hb, rfl⟩ := txAckOk_next h
      refine .inr (.inl ⟨advanceFrame_attempt b _, true, rfl, fun hp => ?_⟩)
      rw [txByte_idle hp] at hb
      cases hb
    | false =>
      obtain ⟨hp, rfl⟩ := txAckFail_next h
      exact .inr (.inl ⟨rfl, false, rfl, hp⟩)
  | rxOffer b =>
    obtain ⟨hq, hdec⟩ := rxOffer_next h
    exact .inr (.inr (.inr (.inl ⟨b, rfl, hq, hdec⟩)))
  | rxNone =>
    obtain ⟨_, ⟨hd, rfl⟩ | ⟨_, rfl⟩⟩ := rxNone_next h
    · exact .inr (.inr (.inr (.inr ⟨rfl, hd, rfl⟩)))
    · exact .inl ⟨rfl, rfl⟩
  | tick => cases h; exact .inl ⟨rfl, rfl⟩
  | reset => exact absurd rfl he

/-! ### Bytes -/

/-- A byte after which the decoder still reads was taken in a reading state: it is counted, and the
per-character timer starts again (R152 to R156). -/
theorem decodeByte_reading {b : Byte} (hinv : StateInv s) (h : decodeByte b s = .next t)
    (hr : reading t = true) :
    reading s = true ∧ t.rxQueue = s.rxQueue.tail ∧ t.lastT = s.tPrev ∧
      bytesTaken t = bytesTaken s + 1 := by
  rcases decodeByte_next h with
    ⟨hd, rfl⟩ | ⟨hd, rfl⟩ | ⟨hd, rfl⟩ | ⟨hd, rfl⟩ | ⟨hd, _, rfl⟩ | ⟨hd, _, hp⟩ | ⟨hd, rfl⟩
  case inl => rcases hd with hd | hd <;> simp [reading, hd] at hr
  case inr.inl =>
    rcases rxSeek_cases b s with ⟨_, e⟩ | ⟨_, _, e⟩ | ⟨_, _, e⟩ <;> rw [e] at hr ⊢
    · simp [reading, bytesTaken, hd]
    · simp [reading, bytesTaken, hd]
    · simp [reading] at hr
  case inr.inr.inl => simp [reading, bytesTaken, hd, rxAddrHi]
  case inr.inr.inr.inl =>
    have hempty := hinv.plen_zero (.inr (.inr hd))
    rcases rxAddrLo_cases b s with ⟨_, e⟩ | ⟨_, e⟩ <;> rw [e] at hr ⊢
    · simp [reading, bytesTaken, hd, hempty]
    · simp [reading] at hr
  case inr.inr.inr.inr.inl =>
    rcases rxChecksum_cases b s with ⟨_, e⟩ | ⟨_, e⟩ <;> rw [e] at hr <;> simp [reading] at hr
  case inr.inr.inr.inr.inr.inl =>
    rcases rxPayloadByte_cases b s with ⟨_, _, e⟩ | ⟨_, _, e⟩ | ⟨_, e⟩ <;> rw [e] at hp <;> cases hp
    · simp [reading, bytesTaken, hd, Nat.add_assoc]
    · simp [reading] at hr
  case inr.inr.inr.inr.inr.inr =>
    rcases rxSwallow_cases b s with ⟨_, e⟩ | ⟨_, e⟩ <;> rw [e] at hr
    · simp [reading, hd] at hr
    · simp [reading_enterSettle] at hr

end Sys2Proof.Machine
end

section
/-! The worst-case bound of one attempt (spec/42_decoder.md R175): while it reads, each byte it takes comes
within CHAR_TIMEOUT of the one before, and only so many bytes can come. -/

namespace Sys2Proof.Machine

variable {s t : State}

/-- An accepted DEC_START begins the attempt at its own time (R150, R91). -/
theorem step_of_startsAttempt (hs : startsAttempt s) (h : step s = .next t) :
    ∃ u, t = attemptStarted u := by
  obtain ⟨x, rest, w, hi, hx, hw, hidle⟩ := hs
  rcases step_cons_cases hi h with ⟨hreset, _⟩ | ⟨_, _, hy⟩
  · simp [hx] at hreset
  rw [← anyBusy_atEvent (rest := rest)] at hidle
  refine ⟨atEvent x rest s, ?_⟩
  rw [hx] at hy
  simp only [handle, execWord, hw, exec, execDecStart, hidle] at hy
  exact (Host.Outcome.next.inj hy).symm

/-- How the input `x` can leave an attempt that it finds reading and leaves reading: with no byte taken, or
with the head of the queue taken and the timer started again. -/
structure ReadOn (x : Input) (s t : State) : Prop where
  reading : reading s = true
  onTime : s.tPrev ≤ x.time ∧ x.time < s.lastT + s.params.charTimeout
  bytes :
    (t.lastT = s.lastT ∧ t.rxQueue = s.rxQueue ++ x.arrived ∧ bytesTaken t = bytesTaken s) ∨
    (t.lastT = x.time ∧ (∃ b, s.rxQueue ++ x.arrived = b :: t.rxQueue) ∧
      bytesTaken t = bytesTaken s + 1)

/-- Every step to a reading state that is no accepted DEC_START goes on with an attempt that was reading. -/
theorem step_readOn (hinv : StateInv s) (hs : ¬startsAttempt s) {x : Input} {rest : List Input}
    (hi : s.inputs = x :: rest) (h : step s = .next t) (hr : reading t = true) : ReadOn x s t := by
  rcases step_cons_cases hi h with ⟨_, rfl⟩ | ⟨hne, ht, hx⟩
  · exact absurd hr (by simp [reading])
  have hinv' : StateInv (atEvent x rest s) := hinv.atEvent ht
  rcases handle_attempt hne hx with
    ⟨hsame, hqueue⟩ | ⟨hsame, ok, _, hp⟩ | ⟨w, hw, hdec, hidle, _⟩ | ⟨b, _, hq, hdec⟩ | ⟨_, _, rfl⟩
  · obtain ⟨hd, _, hj, hp, hlast, _⟩ := attempt_eq_iff.mp hsame
    obtain ⟨hs', hlt, hcount⟩ := atEvent_of_reading (reading_congr hd ▸ hr)
    refine ⟨hs', ⟨ht, hlt⟩, .inl ⟨hlast.trans atEvent_lastT, ?_, ?_⟩⟩
    · exact (transport_eq_iff.mp hqueue).1.trans atEvent_rxQueue
    · exact (bytesTaken_congr hd hj hp).trans hcount
  · have hd := (attempt_eq_iff.mp hsame).1
    simp [reading, hd, hinv'.decSt_idle hp] at hr
  · exact absurd ⟨x, rest, w, hi, hw, hdec, anyBusy_atEvent ▸ hidle⟩ hs
  · obtain ⟨hu, hqueue, hlast, hcount⟩ := decodeByte_reading hinv' hdec hr
    obtain ⟨hs', hlt, hcount'⟩ := atEvent_of_reading hu
    refine ⟨hs', ⟨ht, hlt⟩, .inr ⟨hlast.trans atEvent_tPrev, ⟨b, ?_⟩, by rw [hcount, hcount']⟩⟩
    rw [← atEvent_rxQueue, hqueue]
    exact (List.cons_head?_tail hq).symm
  · simp [reading_enterSettle] at hr

/-- One byte more, within CHAR_TIMEOUT of the one before, is within the bound for one byte more. -/
theorem lt_bound_of_charTimeout {t₀ d : Nat} (hb : AttemptBound t₀ s) (hr : reading s = true)
    (hd : d < s.lastT + s.params.charTimeout) :
    d < t₀ + (bytesTaken s + 1) * s.params.charTimeout := by
  have := hb hr
  rw [Nat.succ_mul]
  omega

/-- The junk budget and the capacity of PBUF bound the bytes of one attempt (R175, R29, R31). -/
theorem bytesTaken_lt (hinv : StateInv s) (hr : reading s = true) :
    bytesTaken s < s.params.junkBudget + 2 + s.params.payloadCap := by
  have hjunk := hinv.junk_lt (.inl hr)
  obtain ⟨_, _, ⟨hcap, _⟩, _⟩ := Params.wf_iff.mp hinv.params_wf
  rcases reading_eq_true.mp hr with hd | hd | hd | hd <;> simp only [bytesTaken, hd]
  case inr.inr.inr =>
    have hplen := hinv.plen_lt (.inl hd)
    omega
  all_goals omega

/-- In a reading state every moment before the deadline lies within the bound of the whole attempt. -/
theorem lt_attemptBound {t₀ d : Nat} (hinv : StateInv s) (hb : AttemptBound t₀ s)
    (hr : reading s = true) (hd : d < s.lastT + s.params.charTimeout) :
    d < t₀ + (s.params.junkBudget + 2 + s.params.payloadCap) * s.params.charTimeout :=
  (lt_bound_of_charTimeout hb hr hd).trans_le
    (Nat.add_le_add_left (Nat.mul_le_mul_right _ (bytesTaken_lt hinv hr)) t₀)

/-- A step that is no accepted DEC_START keeps the bound: a byte it takes came before the deadline. -/
theorem step_attemptBound {t₀ : Nat} (hinv : StateInv s) (hb : AttemptBound t₀ s)
    (hs : ¬startsAttempt s) (h : step s = .next t) : AttemptBound t₀ t := by
  intro hr
  have hparams := parametersNeverChange s t h
  cases hi : s.inputs with
  | nil =>
    rw [step_nil hi] at h
    cases h
    exact hb hr
  | cons x rest =>
    obtain ⟨hs', ⟨_, hd⟩, ⟨hlast, _, hcount⟩ | ⟨hlast, _, hcount⟩⟩ := step_readOn hinv hs hi h hr
    · rw [hparams, hlast, hcount]
      exact hb hs'
    · rw [hparams, hlast, hcount]
      exact (lt_bound_of_charTimeout hb hs' hd).le

/-- Settles O40: a step that goes on reading is a `ReadOn` step, and what it takes is counted. -/
theorem readingStatesAreBounded : Obligations.ReadingStatesAreBounded := by
  refine ⟨fun s t hs h => ?_, fun t₀ s t hinv hb hs => step_attemptBound hinv hb hs,
    fun s t x rest hinv hs hi h hr => ?_, fun t₀ s hinv hb hr => ?_,
    fun t₀ s t x rest hinv hb hs hi h hlate => ?_⟩
  · obtain ⟨u, rfl⟩ := step_of_startsAttempt hs h
    exact ⟨rfl, rfl, rfl, fun _ => Nat.le_add_right _ _⟩
  · rcases (step_readOn hinv hs hi h hr).bytes with ⟨_, hqueue, hcount⟩ | ⟨_, htaken, hcount⟩
    · exact .inl ⟨hqueue, hcount⟩
    · exact .inr ⟨htaken, hcount⟩
  · exact ⟨bytesTaken_lt hinv hr, lt_attemptBound hinv hb hr (hinv.char_running (.inl hr))⟩
  · by_contra hr
    obtain ⟨hs', ⟨_, hd⟩, _⟩ := step_readOn hinv hs hi h (by simpa using hr)
    exact absurd (lt_attemptBound hinv hb hs' hd) (Nat.not_lt.mpr hlate)

end Sys2Proof.Machine
end

section
/-! The decoder's commands (spec/42_decoder.md R150, R170, R171) and what it does with one offered byte or an
empty queue in each of its states (R152 to R164). -/

namespace Sys2Proof.Machine

variable {s : State} {b : Byte}

/-! ### Commands -/

/-- DEC_START while either engine runs (R150). -/
theorem exec_decStart_busy (h : anyBusy s = true) : exec .decStart s = .next (refuse .busy s) := if_pos h

/-- DEC_START with both engines idle (R150). -/
theorem exec_decStart_accepted (h : anyBusy s = false) :
    exec .decStart s = .next (attemptStarted s) := by
  simp [exec, execDecStart, attemptStarted, h]

/-- Settles O28: OP 9 is read in the format without operand, and the interlock decides the rest. -/
theorem decStartCommand : Obligations.DecStartCommand :=
  ⟨onlyWord_of_bareCommand (op := 9) fun w hw => by simp [decode, hw],
    fun _ => ⟨fun he hd => exec_decStart_accepted (anyBusy_eq_false.mpr ⟨he, hd⟩),
      fun hbusy => exec_decStart_busy (anyBusy_eq_true.mpr hbusy)⟩⟩

/-- Settles O35: OP 0xB is read in the format without operand, and a count of at most 255 fits the
response. -/
theorem plenRdCommand : Obligations.PlenRdCommand := by
  refine ⟨onlyWord_of_bareCommand (op := 0xB) fun w hw => by simp [decode, hw], fun s hlen => ?_⟩
  exact ⟨BitVec.ofNat 8 s.plen, Nat.mod_eq_of_lt (Nat.lt_succ_of_le hlen), rfl⟩

/-- Settles O36: OP 0xC is read in the byte format, and every byte below PLEN was written. -/
theorem pbufRdCommand : Obligations.PbufRdCommand := by
  refine ⟨operandWords_of_byteCommand (op := 0xC) fun w hw => by simp [decode, hw], fun k s =>
    ⟨fun hinv hk => ?_, execPbufRd_refused⟩⟩
  obtain ⟨b, hread, _⟩ := hinv.pbuf_written _ hk
  exact ⟨b, hread, execPbufRd_accepted hk (readBuf_ok (hk.trans_le hinv.plen_le) hread)⟩

/-! ### SEEK -/

/-- The head of the queue is what the decoder works on (R65, R151). -/
theorem handle_rxOffer (hq : s.rxQueue.head? = some b) : handle (.rxOffer b) s = decodeByte b s :=
  if_pos hq

theorem decodeByte_seek (hd : s.decSt = .seek) : decodeByte b s = .next (rxSeek b s) := by
  simp only [decodeByte, hd]

/-- `:` starts the frame, whose sum begins with it (R152). -/
theorem rxSeek_colon (s : State) : rxSeek asciiColon s =
    { s with rxQueue := s.rxQueue.tail, lastT := s.tPrev, acc := accOf [asciiColon], decSt := .addrHi } :=
  rfl

/-- A junk byte within the budget is counted (R153). -/
theorem rxSeek_junk (hb : b ≠ asciiColon) (hj : s.junk + 1 ≠ s.params.junkBudget) : rxSeek b s =
    { s with rxQueue := s.rxQueue.tail, lastT := s.tPrev, junk := s.junk + 1 } := by
  simp only [rxSeek, takeByte, hb, hj, if_false]

/-- The budget's last junk byte ends the attempt (R153). -/
theorem rxSeek_overflow (hb : b ≠ asciiColon) (hj : s.junk + 1 = s.params.junkBudget) : rxSeek b s =
    { s with
      rxQueue := s.rxQueue.tail, lastT := s.tPrev, junk := s.junk + 1
      decSt := .idle, decResult := .junkOverflow } := by
  simp only [rxSeek, takeByte, finish, hb, hj, if_false, if_true]

/-- Settles O29: the three arms of `rxSeek`. -/
theorem seekTakesEveryByte : Obligations.SeekTakesEveryByte := by
  intro s b q hd hq
  have hstep : handle (.rxOffer b) s = .next (rxSeek b s) :=
    (handle_rxOffer (hq ▸ rfl)).trans (decodeByte_seek hd)
  have htail : s.rxQueue.tail = q := hq ▸ rfl
  rw [hstep, ← htail]
  exact ⟨fun hb => hb ▸ congrArg _ (rxSeek_colon s), fun hb hj => congrArg _ (rxSeek_junk hb hj),
    fun hb hj => congrArg _ (rxSeek_overflow hb hj)⟩

/-! ### ADDR_HI and ADDR_LO -/

theorem decodeByte_addrHi (hd : s.decSt = .addrHi) : decodeByte b s = .next (rxAddrHi b s) := by
  simp only [decodeByte, hd]

theorem decodeByte_addrLo (hd : s.decSt = .addrLo) : decodeByte b s = .next (rxAddrLo b s) := by
  simp only [decodeByte, hd]

/-- The pair is ADDR's two digits (R155). -/
theorem rxAddrLo_match (h : [s.ah, b] = addrDigits s.addr) : rxAddrLo b s =
    { s with
      rxQueue := s.rxQueue.tail, acc := accAdd s.acc b, lastT := s.tPrev, decSt := .payload } := if_pos h

/-- The pair is not ADDR's (R155). -/
theorem rxAddrLo_mismatch (h : [s.ah, b] ≠ addrDigits s.addr) : rxAddrLo b s =
    { s with
      rxQueue := s.rxQueue.tail, acc := accAdd s.acc b, lastT := s.tPrev
      decSt := .idle, decResult := .addressMismatch } := if_neg h

/-- The two digits of a legal address, as codes (R122). -/
theorem eq_addrDigits_iff {a : BitVec 7} (ha : a.toNat ≤ 99) {hi lo : Byte} :
    [hi, lo] = addrDigits a ↔ hi.toNat = 0x30 + a.toNat / 10 ∧ lo.toNat = 0x30 + a.toNat % 10 := by
  have htens : (digitChar (a.toNat / 10)).toNat = 0x30 + a.toNat / 10 := digitChar_toNat (by omega)
  have hunits : (digitChar (a.toNat % 10)).toNat = 0x30 + a.toNat % 10 := digitChar_toNat (by omega)
  simp only [addrDigits, List.cons.injEq, and_true, ← BitVec.toNat_inj, htens, hunits]

/-- Settles O30: ADDR_HI has one arm, and ADDR_LO compares the pair with the digits' codes. -/
theorem addressBytesAreCompared : Obligations.AddressBytesAreCompared := by
  intro s b q hq
  have hoffer : handle (.rxOffer b) s = decodeByte b s := handle_rxOffer (hq ▸ rfl)
  have htail : s.rxQueue.tail = q := hq ▸ rfl
  rw [hoffer, ← htail]
  refine ⟨accAdd s.acc b, accAdd_toNat s.acc b, decodeByte_addrHi,
    fun hd _ ha hhi hlo => ?_, fun hd _ ha hne => ?_⟩
  · exact (decodeByte_addrLo hd).trans
      (congrArg _ (rxAddrLo_match ((eq_addrDigits_iff ha).mpr ⟨hhi, hlo⟩)))
  · exact (decodeByte_addrLo hd).trans
      (congrArg _ (rxAddrLo_mismatch (mt (eq_addrDigits_iff ha).mp hne)))

/-! ### PAYLOAD -/

/-- UPPER in the terms of R85. -/
theorem isUpper_iff : isUpper b = true ↔ 0x41 ≤ b.toNat ∧ b.toNat ≤ 0x5A := by simp [isUpper]

theorem isUpper_eq_false : isUpper b = false ↔ b.toNat < 0x41 ∨ 0x5A < b.toNat := by
  rw [← Bool.not_eq_true, isUpper_iff]
  omega

/-- A byte that is not uppercase is a payload byte, and is stored while one more fits (R156). -/
theorem decodeByte_payload (hd : s.decSt = .payload) (hb : isUpper b = false)
    (hlt : s.plen < s.params.payloadCap) (hne : s.plen + 1 ≠ s.params.payloadCap) :
    decodeByte b s = .next { s with
      rxQueue := s.rxQueue.tail, acc := accAdd s.acc b, lastT := s.tPrev
      pbuf := s.pbuf.write s.plen b, plen := s.plen + 1 } := by
  simp [decodeByte, rxPayloadByte, takeByte, hd, hb, writeBuf_ok hlt, hne]

/-- The payload byte that fills PBUF ends the attempt (R156). -/
theorem decodeByte_payloadFull (hd : s.decSt = .payload) (hb : isUpper b = false)
    (hlt : s.plen < s.params.payloadCap) (hfull : s.plen + 1 = s.params.payloadCap) :
    decodeByte b s = .next { s with
      rxQueue := s.rxQueue.tail, acc := accAdd s.acc b, lastT := s.tPrev
      pbuf := s.pbuf.write s.plen b, plen := s.plen + 1
      decSt := .idle, decResult := .malformedFrame } := by
  simp [decodeByte, rxPayloadByte, takeByte, finish, hd, hb, writeBuf_ok hlt, hfull]

/-- An uppercase byte is the checksum letter (R159). -/
theorem decodeByte_checksum (hd : s.decSt = .payload) (hb : isUpper b = true) :
    decodeByte b s = .next (rxChecksum b s) := by
  simp only [decodeByte, hd, hb, if_true]

/-- The letter of the sum completes the frame (R159). -/
theorem rxChecksum_match (h : b = ckChar s.acc) :
    rxChecksum b s = { s with rxQueue := s.rxQueue.tail, lastT := s.tPrev, decSt := .swallow } := if_pos h

/-- Any other letter ends the attempt (R159). -/
theorem rxChecksum_mismatch (h : b ≠ ckChar s.acc) :
    rxChecksum b s = { s with
      rxQueue := s.rxQueue.tail, decSt := .idle, decResult := .checksumError } := if_neg h

/-- The checksum letter by its code (R101). -/
theorem eq_ckChar_iff {a : BitVec 5} : b = ckChar a ↔ b.toNat = 0x41 + a.toNat := by
  rw [← BitVec.toNat_inj, ckChar_toNat]

/-- Settles O31: the store touches one entry of PBUF, and whether it is the last decides the arm. -/
theorem payloadBytesAreStored : Obligations.PayloadBytesAreStored := by
  intro s b q hd hq hb hlt
  have hoffer : handle (.rxOffer b) s = decodeByte b s := handle_rxOffer (hq ▸ rfl)
  have htail : s.rxQueue.tail = q := hq ▸ rfl
  rw [hoffer, ← htail]
  have hupper := isUpper_eq_false.mpr hb
  exact ⟨accAdd s.acc b, s.pbuf.write s.plen b, accAdd_toNat s.acc b,
    s.pbuf.read_write_same s.plen b, fun _ hne => s.pbuf.read_write_other b hne,
    decodeByte_payload hd hupper hlt, decodeByte_payloadFull hd hupper hlt⟩

/-- Settles O32: the letter is compared by its code. -/
theorem checksumLetterIsCompared : Obligations.ChecksumLetterIsCompared := by
  intro s b q hd hq hlo hhi
  have hstep : handle (.rxOffer b) s = .next (rxChecksum b s) :=
    (handle_rxOffer (hq ▸ rfl)).trans (decodeByte_checksum hd (isUpper_iff.mpr ⟨hlo, hhi⟩))
  have htail : s.rxQueue.tail = q := hq ▸ rfl
  rw [hstep, ← htail]
  exact ⟨fun hck => congrArg _ (rxChecksum_match (eq_ckChar_iff.mpr hck)),
    fun hck => congrArg _ (rxChecksum_mismatch (mt eq_ckChar_iff.mp hck))⟩

/-! ### SWALLOW -/

theorem decodeByte_swallow (hd : s.decSt = .swallow) : decodeByte b s = .next (rxSwallow b s) := by
  simp only [decodeByte, hd]

/-- CR and LF are discarded (R158). -/
theorem rxSwallow_newline (hb : isNewline b = true) :
    rxSwallow b s = { s with rxQueue := s.rxQueue.tail, lastT := s.tPrev } := if_pos hb

/-- Any other byte is left, and ends the swallow (R158). -/
theorem rxSwallow_other (hb : ¬isNewline b = true) : rxSwallow b s = enterSettle s.tPrev s := if_neg hb

/-- An empty queue ends the swallow (R164). -/
theorem handle_rxNone_swallow (hd : s.decSt = .swallow) (hq : s.rxQueue = []) :
    handle .rxNone s = .next (enterSettle s.tPrev s) := by
  simp [handle, rxNone, hd, hq]

/-- In every other state it changes nothing (R164). -/
theorem handle_rxNone_other (hd : s.decSt ≠ .swallow) (hq : s.rxQueue = []) :
    handle .rxNone s = .next s := by
  simp [handle, rxNone, hd, hq]

/-- Settles O33: what ends the swallow enters SETTLE, with or without a delay. -/
theorem swallowEndsOnOtherByteOrNone : Obligations.SwallowEndsOnOtherByteOrNone := by
  refine fun s e hhead hempty => ⟨fun hd b he hb => ?_, fun hd he => ?_, fun hd he => ?_⟩
  · subst he
    rw [handle_rxOffer (hhead b rfl), decodeByte_swallow hd, rxSwallow_newline (isNewline_iff.mpr ?_)]
    simpa [← BitVec.toNat_inj] using hb
  · have hstep : handle e s = .next (enterSettle s.tPrev s) := by
      rcases he with rfl | ⟨b, rfl, hcr, hlf⟩
      · exact handle_rxNone_swallow hd (hempty rfl)
      · rw [handle_rxOffer (hhead b rfl), decodeByte_swallow hd, rxSwallow_other]
        rw [isNewline_iff]
        rintro (rfl | rfl)
        · exact hcr rfl
        · exact hlf rfl
    rw [hstep]
    exact ⟨fun hdelay => congrArg _ (enterSettle_delayed hdelay s.tPrev),
      fun hdelay => congrArg _ (enterSettle_now hdelay s.tPrev)⟩
  · subst he
    exact handle_rxNone_other hd (hempty rfl)

end Sys2Proof.Machine
end

section
/-! The ends of an attempt by time (spec/42_decoder.md R162, R163, R174): FRAME_OK comes at the end of the
settle delay only, and TIMEOUT at the first event at or after the deadline. -/

namespace Sys2Proof.Machine

variable {s t : State}

/-! ### FRAME_OK -/

theorem enterSettle_frameOk {d : Nat} (h : (enterSettle d s).decResult = .frameOk) :
    s.decResult = .frameOk ∨ s.params.settleDelay = 0 := by
  rcases enterSettle_cases d s with ⟨hdelay, _⟩ | ⟨_, e⟩
  · exact .inr hdelay
  · exact .inl (by rwa [e] at h)

/-- The timer phase publishes FRAME_OK where the settle delay is over (R160). -/
theorem advanceTime_frameOk {d : Nat} (h : (advanceTime d s).decResult = .frameOk) :
    s.decResult = .frameOk ∨ (s.decSt = .settle ∧ s.params.settleDelay ≤ d - s.setT0) ∨
      (s.decSt = .swallow ∧ s.params.settleDelay = 0) := by
  rcases timerPhase_cases d { s with tPrev := d } with e | ⟨_, _, e⟩ | ⟨hd, _, e⟩ | ⟨hd, hx, _⟩
  · exact .inl (by rwa [advanceTime, e] at h)
  · simp [advanceTime, e] at h
  · rw [advanceTime, e] at h
    exact (enterSettle_frameOk h).imp_right fun hdelay => .inr ⟨hd, hdelay⟩
  · exact .inr (.inl ⟨hd, hx⟩)

/-- The timer phase never moves the decoder into SWALLOW (R160). -/
theorem decSt_swallow_of_advanceTime {d : Nat} (h : (advanceTime d s).decSt = .swallow) :
    s.decSt = .swallow := by
  rcases advanceTime_cases d s with ⟨_, _, e⟩ | ⟨_, e⟩ | ⟨hd, _⟩ | ⟨_, e⟩
  · rwa [e] at h
  · simp [e] at h
  · exact hd
  · simp [e] at h

/-- A byte publishes FRAME_OK in SWALLOW only, where there is no settle delay (R158, R163). -/
theorem decodeByte_frameOk {b : Byte} (h : decodeByte b s = .next t) (hok : t.decResult = .frameOk) :
    s.decResult = .frameOk ∨ (s.decSt = .swallow ∧ s.params.settleDelay = 0) := by
  rcases decodeByte_next h with
    ⟨_, rfl⟩ | ⟨_, rfl⟩ | ⟨_, rfl⟩ | ⟨_, rfl⟩ | ⟨_, _, rfl⟩ | ⟨_, _, hp⟩ | ⟨hd, rfl⟩
  case inl => exact .inl hok
  case inr.inl =>
    rcases rxSeek_cases b s with ⟨_, e⟩ | ⟨_, _, e⟩ | ⟨_, _, e⟩ <;> rw [e] at hok
    · exact .inl hok
    · exact .inl hok
    · simp at hok
  case inr.inr.inl => exact .inl hok
  case inr.inr.inr.inl =>
    rcases rxAddrLo_cases b s with ⟨_, e⟩ | ⟨_, e⟩ <;> rw [e] at hok
    · exact .inl hok
    · simp at hok
  case inr.inr.inr.inr.inl =>
    rcases rxChecksum_cases b s with ⟨_, e⟩ | ⟨_, e⟩ <;> rw [e] at hok
    · exact .inl hok
    · simp at hok
  case inr.inr.inr.inr.inr.inl =>
    rcases rxPayloadByte_cases b s with ⟨_, _, e⟩ | ⟨_, _, e⟩ | ⟨_, e⟩ <;> rw [e] at hp <;> cases hp
    · exact .inl hok
    · simp at hok
  case inr.inr.inr.inr.inr.inr =>
    rcases rxSwallow_cases b s with ⟨_, e⟩ | ⟨_, e⟩ <;> rw [e] at hok
    · exact .inl hok
    · exact (enterSettle_frameOk hok).imp_right fun hdelay => ⟨hd, hdelay⟩

/-- No byte moves T_PREV. -/
theorem decodeByte_tPrev {b : Byte} (h : decodeByte b s = .next t) : t.tPrev = s.tPrev := by
  rcases decodeByte_next h with
    ⟨_, rfl⟩ | ⟨_, rfl⟩ | ⟨_, rfl⟩ | ⟨_, rfl⟩ | ⟨_, _, rfl⟩ | ⟨_, _, hp⟩ | ⟨_, rfl⟩
  case inl => rfl
  case inr.inl => rcases rxSeek_cases b s with ⟨_, e⟩ | ⟨_, _, e⟩ | ⟨_, _, e⟩ <;> rw [e]
  case inr.inr.inl => rfl
  case inr.inr.inr.inl => rcases rxAddrLo_cases b s with ⟨_, e⟩ | ⟨_, e⟩ <;> rw [e]
  case inr.inr.inr.inr.inl => rcases rxChecksum_cases b s with ⟨_, e⟩ | ⟨_, e⟩ <;> rw [e]
  case inr.inr.inr.inr.inr.inl =>
    rcases rxPayloadByte_cases b s with ⟨_, _, e⟩ | ⟨_, _, e⟩ | ⟨_, e⟩ <;> rw [e] at hp <;> cases hp <;> rfl
  case inr.inr.inr.inr.inr.inr => rcases rxSwallow_cases b s with ⟨_, e⟩ | ⟨_, e⟩ <;> simp [e]

/-- An event's own rule, RESET excepted, keeps T_PREV, and publishes FRAME_OK in SWALLOW only, where there
is no settle delay (R91, R163). -/
theorem handle_frameOk {e : Event} (he : e ≠ .reset) (h : handle e s = .next t)
    (hok : t.decResult = .frameOk) : t.tPrev = s.tPrev ∧
      (s.decResult = .frameOk ∨ (s.decSt = .swallow ∧ s.params.settleDelay = 0)) := by
  rcases handle_attempt he h with
    ⟨hsame, _⟩ | ⟨hsame, _⟩ | ⟨_, _, _, _, rfl⟩ | ⟨b, _, _, hdec⟩ | ⟨_, hd, rfl⟩
  case inr.inr.inl => exact absurd hok (by simp [attemptStarted])
  case inr.inr.inr.inl => exact ⟨decodeByte_tPrev hdec, decodeByte_frameOk hdec hok⟩
  case inr.inr.inr.inr =>
    exact ⟨enterSettle_tPrev _ s, (enterSettle_frameOk hok).imp_right fun hdelay => ⟨hd, hdelay⟩⟩
  all_goals
    obtain ⟨_, hresult, _, _, _, htime⟩ := attempt_eq_iff.mp hsame
    exact ⟨htime, .inl (hresult ▸ hok)⟩

/-- Settles O41: of the parts of a step only the settle timer and the end of SWALLOW publish FRAME_OK. -/
theorem frameOkOnlyAfterTheSettleDelay : Obligations.FrameOkOnlyAfterTheSettleDelay := by
  intro s t hinv h hok hnew
  cases hi : s.inputs with
  | nil =>
    rw [step_nil hi] at h
    cases h
    exact absurd hok hnew
  | cons x rest =>
    rcases step_cons_cases hi h with ⟨_, rfl⟩ | ⟨hne, _, hx⟩
    · simp at hok
    obtain ⟨htime, hresult | ⟨hd, hdelay⟩⟩ := handle_frameOk hne hx hok
    · rcases advanceTime_frameOk hresult with hold | ⟨hd, hover⟩ | hswallow
      · exact absurd hold hnew
      · have hpending := hinv.settle_running hd
        have hstarted := hinv.setT0_le hd
        rw [htime, atEvent_tPrev]
        simp only [arrive_params, arrive_setT0] at hover
        exact .inl ⟨hd, by omega⟩
      · exact .inr hswallow
    · exact .inr ⟨decSt_swallow_of_advanceTime (atEvent_decSt ▸ hd), atEvent_params ▸ hdelay⟩

/-! ### TIMEOUT -/

/-- An event that offers no byte and acknowledges none, with the queue it finds. -/
def Quiet (e : Event) (q : List Byte) : Prop := e = .tick ∨ (∃ w, e = .cmd w) ∨ (e = .rxNone ∧ q = [])

/-- A quiet event that begins no attempt leaves the attempt and the transport as they are, outside
SWALLOW. -/
theorem handle_quiet {e : Event} (hinv : StateInv s) (he : Quiet e s.rxQueue)
    (hd : s.decSt ≠ .swallow)
    (hstart : ∀ w, e = .cmd w → decode w = .ok .decStart → anyBusy s = true) :
    ∃ t, handle e s = .next t ∧ attempt t = attempt s ∧ transport t = transport s := by
  have hready : portReady e s := by
    rcases he with rfl | ⟨w, rfl⟩ | ⟨rfl, hq⟩
    · exact trivial
    · exact trivial
    · exact hq
  have hnot : e ≠ .reset ∧ (∀ ok, e ≠ .txAck ok) ∧ ∀ b, e ≠ .rxOffer b := by
    rcases he with rfl | ⟨w, rfl⟩ | ⟨rfl, _⟩ <;> simp
  obtain ⟨hreset, hack, hoffer⟩ := hnot
  obtain ⟨t, ht⟩ := handle_progress hinv hready
  rcases handle_attempt hreset ht with
    hsame | ⟨_, ok, hok, _⟩ | ⟨w, hw, hdec, hidle, _⟩ | ⟨b, hb, _⟩ | ⟨_, hd', _⟩
  · exact ⟨t, ht, hsame⟩
  · exact absurd hok (hack ok)
  · simp [hstart w hw hdec] at hidle
  · exact absurd hb (hoffer b)
  · exact absurd hd' hd

theorem decSt_ne_of_reading (h : reading s = true) : s.decSt ≠ .idle ∧ s.decSt ≠ .swallow := by
  rcases reading_eq_true.mp h with hd | hd | hd | hd <;> simp [hd]

/-- What waiting leaves of a reading state: the attempt, and the queue with the bytes that arrived. -/
structure WaitedOn (arrived : List Byte) (rest : List Input) (s t : State) : Prop where
  inv : StateInv t
  decSt : t.decSt = s.decSt
  lastT : t.lastT = s.lastT
  params : t.params = s.params
  rxQueue : t.rxQueue = s.rxQueue ++ arrived
  inputs : t.inputs = rest

/-- A quiet event below the deadline leaves a reading state waiting: the interlock refuses DEC_START. -/
theorem step_quiet {x : Input} {rest : List Input} (hinv : StateInv s) (hr : reading s = true)
    (hi : s.inputs = x :: rest) (ht : s.tPrev ≤ x.time)
    (hx : x.time < s.lastT + s.params.charTimeout) (he : Quiet x.event (s.rxQueue ++ x.arrived)) :
    ∃ t, step s = .next t ∧ WaitedOn x.arrived rest s t ∧ t.tPrev = x.time := by
  have hlast := hinv.lastT_le (.inl hr)
  have hat : atEvent x rest s =
      { s with tPrev := x.time, rxQueue := s.rxQueue ++ x.arrived, inputs := rest } :=
    atEvent_receiving (.inl hr) (by omega)
  obtain ⟨hbusy, hswallow⟩ := decSt_ne_of_reading hr
  obtain ⟨t, hstep, hsame, hqueue⟩ := handle_quiet (hinv.atEvent (rest := rest) ht)
    (by rwa [atEvent_rxQueue]) (by rwa [hat])
    (fun _ _ _ => by rw [hat]; exact anyBusy_eq_true.mpr (.inr hbusy))
  have hne : x.event ≠ .reset := by rcases he with e | ⟨w, e⟩ | ⟨e, _⟩ <;> simp [e]
  rw [← step_onTime hi hne ht] at hstep
  rw [hat] at hsame hqueue
  obtain ⟨hd, _, _, _, hlast', htime⟩ := attempt_eq_iff.mp hsame
  obtain ⟨hrx, _, hin⟩ := transport_eq_iff.mp hqueue
  exact ⟨t, hstep, ⟨everyStepKeepsTheInvariant _ _ hinv hstep, hd, hlast',
    parametersNeverChange _ _ hstep, hrx, hin⟩, htime⟩

/-- Events below the deadline that offer no byte (R174). RX_NONE needs an empty queue all along. -/
def EarlyInputs (s : State) (early : List Input) : Prop :=
  ∀ x ∈ early, x.time < s.lastT + s.params.charTimeout ∧
    (x.event = .tick ∨ (∃ w, x.event = .cmd w) ∨
      (x.event = .rxNone ∧ s.rxQueue = [] ∧ ∀ y ∈ early, y.arrived = []))

theorem EarlyInputs.quiet {x : Input} {early : List Input} (h : EarlyInputs s (x :: early)) :
    x.time < s.lastT + s.params.charTimeout ∧ Quiet x.event (s.rxQueue ++ x.arrived) := by
  obtain ⟨hx, he⟩ := h x List.mem_cons_self
  refine ⟨hx, he.imp_right (·.imp_right fun ⟨e, hq, hnone⟩ => ⟨e, ?_⟩)⟩
  rw [hq, hnone x List.mem_cons_self, List.append_nil]

theorem EarlyInputs.tail {x : Input} {early rest : List Input} (h : EarlyInputs s (x :: early))
    (ht : WaitedOn x.arrived (early ++ rest) s t) : EarlyInputs t early := by
  intro y hy
  obtain ⟨hlt, he⟩ := h y (List.mem_cons_of_mem x hy)
  rw [ht.lastT, ht.params, ht.rxQueue]
  refine ⟨hlt, he.imp_right (·.imp_right fun ⟨e, hq, hnone⟩ => ⟨e, ?_, fun z hz => ?_⟩)⟩
  · rw [hq, hnone x List.mem_cons_self, List.append_nil]
  · exact hnone z (List.mem_cons_of_mem x hz)

/-- Quiet events below the deadline, in a row. -/
theorem run_quiet {early rest : List Input} (hinv : StateInv s) (hr : reading s = true)
    (hearly : EarlyInputs s early) (hrise : risesFrom s.tPrev (early.map Input.time))
    (hi : s.inputs = early ++ rest) :
    ∃ t, run early.length s = .next t ∧ WaitedOn (early.flatMap Input.arrived) rest s t := by
  induction early generalizing s with
  | nil => exact ⟨s, rfl, hinv, rfl, rfl, rfl, (List.append_nil _).symm, hi⟩
  | cons x early ih =>
    obtain ⟨hx, hquiet⟩ := hearly.quiet
    obtain ⟨ht, hrise'⟩ := hrise
    obtain ⟨u, hstep, hu, htime⟩ := step_quiet hinv hr hi ht hx hquiet
    obtain ⟨t, hrun, htail⟩ :=
      ih hu.inv (reading_congr hu.decSt ▸ hr) (hearly.tail hu) (htime ▸ hrise') hu.inputs
    refine ⟨t, (run_succ hstep).trans hrun, htail.inv, htail.decSt.trans hu.decSt,
      htail.lastT.trans hu.lastT, htail.params.trans hu.params, ?_, htail.inputs⟩
    rw [htail.rxQueue, hu.rxQueue, List.append_assoc, List.flatMap_cons]

/-- The first event at or after the deadline of a reading state ends it in TIMEOUT before its own rule
runs, and DEC_START then begins the next attempt (R160, R91). -/
theorem step_timeout {x : Input} {rest : List Input} (hinv : StateInv s) (hr : reading s = true)
    (hi : s.inputs = x :: rest) (hx : s.lastT + s.params.charTimeout ≤ x.time)
    (he : Quiet x.event (s.rxQueue ++ x.arrived) ∨
      ∃ b, x.event = .rxOffer b ∧ (s.rxQueue ++ x.arrived).head? = some b) :
    ∃ t, step s = .next t ∧ t.rxQueue = s.rxQueue ++ x.arrived ∧
      ((∀ w, x.event = .cmd w → decode w ≠ .ok .decStart) →
        t.decSt = .idle ∧ t.decResult = .timeout) ∧
      (∀ w, x.event = .cmd w → decode w = .ok .decStart →
        t.decSt = .seek ∧ t.decResult = .none ∧ t.lastT = x.time ∧ bytesTaken t = 0) := by
  have ht : s.tPrev ≤ x.time := (hinv.char_running (.inl hr)).le.trans hx
  have hne : x.event ≠ .reset := by
    rcases he with (e | ⟨w, e⟩ | ⟨e, _⟩) | ⟨b, e, _⟩ <;> simp [e]
  have hat : atEvent x rest s = { s with
      tPrev := x.time, rxQueue := s.rxQueue ++ x.arrived, inputs := rest
      decSt := .idle, decResult := .timeout } :=
    advanceTime_timeout (s := arrive x.arrived { s with inputs := rest }) hr
      (Nat.le_sub_of_add_le' hx)
  have hidle : anyBusy (atEvent x rest s) = false :=
    anyBusy_eq_false.mpr ⟨atEvent_encPh.trans (hinv.encPh_idle (decSt_ne_of_reading hr).1), by rw [hat]⟩
  rw [step_onTime hi hne ht]
  by_cases hstart : ∃ w, x.event = .cmd w ∧ decode w = .ok .decStart
  · obtain ⟨w, hw, hdec⟩ := hstart
    refine ⟨attemptStarted (atEvent x rest s), ?_, by simp [attemptStarted],
      fun hno => absurd hdec (hno w hw), fun _ _ _ => ⟨rfl, rfl, atEvent_tPrev, rfl⟩⟩
    rw [hw, ← exec_decStart_accepted hidle]
    simp only [handle, execWord, hdec]
  · have hno (w : Word) (hw : x.event = .cmd w) (hdec : decode w = .ok .decStart) : False :=
      hstart ⟨w, hw, hdec⟩
    have hsame : ∃ t, handle x.event (atEvent x rest s) = .next t ∧
        attempt t = attempt (atEvent x rest s) ∧ transport t = transport (atEvent x rest s) := by
      rcases he with hquiet | ⟨b, hb, hq⟩
      · exact handle_quiet (hinv.atEvent ht) (by rwa [atEvent_rxQueue]) (by simp [hat])
          fun w hw hdec => (hno w hw hdec).elim
      · refine ⟨atEvent x rest s, ?_, rfl, rfl⟩
        rw [hb, handle_rxOffer (by rwa [atEvent_rxQueue])]
        simp only [decodeByte, hat]
    obtain ⟨t, hstep, hattempt, hqueue⟩ := hsame
    obtain ⟨hd, hresult, _⟩ := attempt_eq_iff.mp hattempt
    exact ⟨t, hstep, (transport_eq_iff.mp hqueue).1.trans atEvent_rxQueue,
      fun _ => ⟨by rw [hd, hat], by rw [hresult, hat]⟩, fun w hw hdec => (hno w hw hdec).elim⟩

/-- A run goes on from where a part of it has come. -/
theorem run_add {k : Nat} {u : State} (h : run k s = .next u) (j : Nat) : run (k + j) s = run j u := by
  induction k generalizing s with
  | zero =>
    cases h
    rw [Nat.zero_add]
  | succ k ih =>
    rw [Nat.succ_add]
    cases hs : step s with
    | next s' =>
      rw [run_succ hs] at h ⊢
      exact ih h
    | fault f => simp [run, Host.Core.run, Sys2Proof.core, hs] at h
    | refused r => simp [run, Host.Core.run, Sys2Proof.core, hs] at h

/-- Settles O39: the early events wait, and the late one is the first at or after the deadline. -/
theorem timeoutExactlyAtTheDeadline : Obligations.TimeoutExactlyAtTheDeadline := by
  intro s early late rest hinv hr hearly hrise hlate q he hi
  obtain ⟨u, hrun, hu⟩ := run_quiet hinv hr hearly hrise hi
  have hr' : reading u = true := reading_congr hu.decSt ▸ hr
  have hq : u.rxQueue ++ late.arrived = q := by rw [hu.rxQueue]
  obtain ⟨t, hstep, hqueue, hend, hstart⟩ := step_timeout hu.inv hr' hu.inputs
    (by rwa [hu.lastT, hu.params]) (by rw [hq]; simpa only [Quiet, or_assoc] using he)
  refine ⟨u, t, hrun, hu.decSt, ?_, (run_add hrun 1).trans (run_succ hstep), hqueue.trans hq, hend, hstart⟩
  exact hu.inv.decResult_none (decBusy_eq_true.mpr (decSt_ne_of_reading hr').1)

end Sys2Proof.Machine
end

section
/-! Bytes in a row (spec/42_decoder.md R168): the junk that ends an attempt, and the recovery of a frame
behind junk. -/

namespace Sys2Proof.Machine

variable {s t : State} {b : Byte}

/-! ### One byte on time -/

/-- The moments `ts` do not fall, and each lies before the deadline the one before it sets; the first is
measured from the latest byte, and no earlier than the latest event. -/
def InTime (s : State) : List Nat → Prop
  | [] => True
  | d :: ts => s.tPrev ≤ d ∧ d < s.lastT + s.params.charTimeout ∧ closeFrom s.params.charTimeout d ts

theorem inTime_of_closeFrom {ts : List Nat} (h : closeFrom s.params.charTimeout s.lastT ts)
    (ht : s.tPrev ≤ ts.head!) : InTime s ts := by
  cases ts with
  | nil => trivial
  | cons d ts =>
    obtain ⟨_, hd, hclose⟩ := h
    exact ⟨ht, hd, hclose⟩

theorem InTime.head {d : Nat} {ts : List Nat} (h : InTime s (d :: ts)) :
    s.tPrev ≤ d ∧ d < s.lastT + s.params.charTimeout := by
  obtain ⟨ht, hd, _⟩ := h
  exact ⟨ht, hd⟩

/-- What a taken byte leaves of the transport and of time: the queue behind it, and a timer that starts
again at the byte. -/
structure ByteTaken (s t : State) : Prop where
  rxQueue : t.rxQueue = s.rxQueue.tail
  lastT : t.lastT = s.tPrev
  tPrev : t.tPrev = s.tPrev

/-- The state in which a byte offered at `d` is worked on: the queue is `q`, and nothing else has changed. -/
def offeredAt (d : Nat) (q : List Byte) (rest : List Input) (s : State) : State :=
  { s with tPrev := d, rxQueue := q, inputs := rest }

/-- After a byte taken at `d` the moments behind it are in time. -/
theorem InTime.tail {d : Nat} {ts : List Nat} {q : List Byte} {rest : List Input}
    (h : InTime s (d :: ts)) (ht : ByteTaken (offeredAt d q rest s) t) (hp : t.params = s.params) :
    InTime t ts := by
  cases ts with
  | nil => trivial
  | cons e ts =>
    obtain ⟨_, _, hle, hlt, hclose⟩ := h
    rw [InTime, hp, ht.lastT, ht.tPrev]
    exact ⟨hle, hlt, hclose⟩

theorem StateInv.offeredAt (h : StateInv s) {d : Nat} (hr : reading s = true ∨ s.decSt = .swallow)
    (ht : s.tPrev ≤ d) (hd : d < s.lastT + s.params.charTimeout) (q : List Byte) (rest : List Input) :
    StateInv (offeredAt d q rest s) :=
  (h.setTime ht (fun _ => hd) fun hs => by simp [reading, hs] at hr).withQueues q s.txSent rest

/-- A byte offered on time while the decoder waits for one is worked on (R91, R151). -/
theorem step_offer {d : Nat} {bs : List Byte} {rest : List Input} (hinv : StateInv s)
    (hr : reading s = true ∨ s.decSt = .swallow) (hi : s.inputs = ⟨d, bs, .rxOffer b⟩ :: rest)
    (ht : s.tPrev ≤ d) (hd : d < s.lastT + s.params.charTimeout)
    (hq : (s.rxQueue ++ bs).head? = some b) :
    step s = decodeByte b (offeredAt d (s.rxQueue ++ bs) rest s) := by
  have hlast := hinv.lastT_le hr
  have hat : atEvent ⟨d, bs, .rxOffer b⟩ rest s = offeredAt d (s.rxQueue ++ bs) rest s :=
    atEvent_receiving hr (by simp only; omega)
  rw [step_onTime hi (by simp) ht, hat]
  exact handle_rxOffer hq

/-! ### Junk -/

/-- As many junk bytes as the budget has left end the attempt (R153). -/
theorem run_junkOverflow {junk rest : List Byte} {ts : List Nat} (hinv : StateInv s)
    (hd : s.decSt = .seek) (hjunk : ∀ b ∈ junk, b ≠ asciiColon)
    (hcount : s.junk + junk.length = s.params.junkBudget) (hlen : ts.length = junk.length)
    (htime : InTime s ts) (hq : s.rxQueue = junk ++ rest)
    (hi : s.inputs = (ts.zip junk).map fun p => ⟨p.1, [], .rxOffer p.2⟩) :
    ∃ t, run junk.length s = .next t ∧
      t.decSt = .idle ∧ t.decResult = .junkOverflow ∧ t.junk = s.params.junkBudget ∧
      t.acc = s.acc ∧ t.plen = s.plen ∧ t.rxQueue = rest := by
  have hr : reading s = true := reading_eq_true.mpr (.inl hd)
  induction junk generalizing s ts with
  | nil => exact absurd hcount (hinv.junk_lt (.inl hr)).ne
  | cons c junk ih =>
    obtain _ | ⟨d, ts⟩ := ts
    · simp at hlen
    obtain ⟨hc, hjunk'⟩ := List.forall_mem_cons.mp hjunk
    obtain ⟨ht, hlt⟩ := htime.head
    rw [List.length_cons] at hcount
    have hstep := (step_offer hinv (.inl hr) hi ht hlt (by rw [hq]; rfl)).trans (decodeByte_seek hd)
    rcases junk with _ | ⟨c', junk⟩
    · rw [rxSeek_overflow hc (by simpa [offeredAt] using hcount)] at hstep
      refine ⟨_, run_succ hstep, rfl, rfl, hcount, rfl, rfl, ?_⟩
      simp [offeredAt, hq]
    · have hmore : s.junk + 1 ≠ s.params.junkBudget := by rw [List.length_cons] at hcount; omega
      rw [rxSeek_junk (s := offeredAt d _ _ s) hc hmore] at hstep
      obtain ⟨t, hrun, hidle, hresult, hjunk, hacc, hplen, hqueue⟩ :=
        ih (ts := ts) (everyStepKeepsTheInvariant _ _ hinv hstep) hd hjunk'
          (by simp only [offeredAt]; omega) (by simpa using hlen) (htime.tail ⟨rfl, rfl, rfl⟩ rfl)
          (by simp [offeredAt, hq]) rfl hr
      exact ⟨t, (run_succ hstep).trans hrun, hidle, hresult, hjunk, hacc, hplen, hqueue⟩

/-- Settles O38: the attempt has just started, so the whole budget is left. -/
theorem junkBudgetEndsTheAttempt : Obligations.JunkBudgetEndsTheAttempt := by
  intro s junk rest ts hinv hd hzero hjunk hbudget hlen hclose ht hq hi
  exact run_junkOverflow hinv hd hjunk (by rw [hzero, Nat.zero_add, hbudget]) hlen
    (inTime_of_closeFrom hclose ht) hq hi

/-! ### A frame -/

/-- What comes after the payload `p` of a response to `a`: its checksum letter, then CR and LF (R89,
R158). -/
def frameEnd (a : BitVec 7) (p newlines : List Byte) : List Byte :=
  ckChar (accOf (responseBody a p)) :: newlines

/-- `Awaits p j s bs`: the bytes `bs` complete the frame with payload `p` behind `j` junk bytes, of which the
decoder has taken the part that its state says (R152 to R158). -/
inductive Awaits (p : List Byte) (j : Nat) (s : State) : List Byte → Prop where
  | seek {junk newlines : List Byte} (hd : s.decSt = .seek) (hjunk : ∀ b ∈ junk, b ≠ asciiColon)
      (hcount : s.junk + junk.length = j) (hn : ∀ b ∈ newlines, isNewline b = true) :
      Awaits p j s (junk ++ responseBody s.addr p ++ frameEnd s.addr p newlines)
  | addrHi {newlines : List Byte} (hd : s.decSt = .addrHi) (hcount : s.junk = j)
      (hn : ∀ b ∈ newlines, isNewline b = true) :
      Awaits p j s (addrDigits s.addr ++ p ++ frameEnd s.addr p newlines)
  | addrLo {newlines : List Byte} {b : Byte} (hd : s.decSt = .addrLo) (hcount : s.junk = j)
      (hdigits : [s.ah, b] = addrDigits s.addr) (hn : ∀ b ∈ newlines, isNewline b = true) :
      Awaits p j s (b :: p ++ frameEnd s.addr p newlines)
  | payload {left newlines : List Byte} (hd : s.decSt = .payload) (hcount : s.junk = j)
      (hleft : payloadBytes s ++ left = p) (hn : ∀ b ∈ newlines, isNewline b = true) :
      Awaits p j s (left ++ frameEnd s.addr p newlines)
  | swallow {newlines : List Byte} (hd : s.decSt = .swallow) (hcount : s.junk = j)
      (hall : payloadBytes s = p) (hn : ∀ b ∈ newlines, isNewline b = true) :
      Awaits p j s newlines

theorem payloadBytes_length (h : StateInv s) : (payloadBytes s).length = s.plen := by
  have hall : ∀ i ∈ List.range s.plen, (s.pbuf.read i).isSome = true := fun i hi => by
    obtain ⟨b, hb, _⟩ := h.pbuf_written i (List.mem_range.mp hi)
    rw [hb, Option.isSome_some]
  exact (List.filterMap_length_eq_length.mpr hall).trans List.length_range

namespace Awaits

variable {p bs : List Byte} {j : Nat}

/-- Until the frame is complete and its CR and LF are gone, the decoder waits for a byte. -/
theorem receiving (h : Awaits p j s bs) : reading s = true ∨ s.decSt = .swallow := by
  cases h with
  | seek hd | addrHi hd | addrLo hd | payload hd => exact .inl (by simp [reading, hd])
  | swallow hd => exact .inr hd

/-- With no byte left the frame is complete. -/
theorem complete (h : Awaits p j s []) : s.decSt = .swallow ∧ s.junk = j ∧ payloadBytes s = p := by
  generalize hnil : ([] : List Byte) = bs at h
  cases h with
  | seek | addrHi | addrLo | payload => simp [frameEnd] at hnil
  | swallow hd hcount hall => exact ⟨hd, hcount, hall⟩

/-- The state at an offer awaits the same bytes. -/
theorem offeredAt (h : Awaits p j s bs) (d : Nat) (q : List Byte) (rest : List Input) :
    Awaits p j (offeredAt d q rest s) bs := by
  cases h with
  | seek hd hjunk hcount hn => exact .seek (s := Machine.offeredAt d q rest s) hd hjunk hcount hn
  | addrHi hd hcount hn => exact .addrHi (s := Machine.offeredAt d q rest s) hd hcount hn
  | addrLo hd hcount hdigits hn =>
    exact .addrLo (s := Machine.offeredAt d q rest s) hd hcount hdigits hn
  | payload hd hcount hleft hn => exact .payload (s := Machine.offeredAt d q rest s) hd hcount hleft hn
  | swallow hd hcount hall hn => exact .swallow (s := Machine.offeredAt d q rest s) hd hcount hall hn

/-- Junk before the colon is counted, and the colon starts the frame (R152, R153). -/
theorem step_seek {junk newlines : List Byte} (hd : s.decSt = .seek)
    (hjunk : ∀ b ∈ junk, b ≠ asciiColon) (hcount : s.junk + junk.length = j)
    (hbudget : j < s.params.junkBudget) (hn : ∀ b ∈ newlines, isNewline b = true)
    (hbs : junk ++ responseBody s.addr p ++ frameEnd s.addr p newlines = b :: bs) :
    ∃ t, decodeByte b s = .next t ∧ Awaits p j t bs ∧ ByteTaken s t := by
  rw [decodeByte_seek hd]
  rcases junk with _ | ⟨c, junk⟩
  · obtain ⟨rfl, rfl⟩ : asciiColon = b ∧ _ = bs := List.cons.inj hbs
    rw [rxSeek_colon]
    exact ⟨_, rfl, .addrHi rfl hcount hn, rfl, rfl, rfl⟩
  · obtain ⟨rfl, rfl⟩ : c = b ∧ _ = bs := List.cons.inj hbs
    obtain ⟨hc, hjunk'⟩ := List.forall_mem_cons.mp hjunk
    rw [List.length_cons] at hcount
    rw [rxSeek_junk hc (by omega)]
    exact ⟨_, rfl, .seek hd hjunk' (by simp only; omega) hn, rfl, rfl, rfl⟩

/-- The payload is stored byte by byte, and the checksum letter completes the frame (R156, R159). -/
theorem step_payload {left newlines : List Byte} (hinv : StateInv s) (htr : AccTracksFrame s)
    (hp : ∀ b ∈ p, isUpper b = false) (hcap : p.length + 1 ≤ s.params.payloadCap)
    (hd : s.decSt = .payload) (hcount : s.junk = j) (hleft : payloadBytes s ++ left = p)
    (hn : ∀ b ∈ newlines, isNewline b = true) (hbs : left ++ frameEnd s.addr p newlines = b :: bs) :
    ∃ t, decodeByte b s = .next t ∧ Awaits p j t bs ∧ ByteTaken s t := by
  have hacc := htr.payload (.inl hd)
  have hlen := payloadBytes_length hinv
  rcases left with _ | ⟨c, left⟩
  · obtain ⟨hck, rfl⟩ : ckChar (accOf (responseBody s.addr p)) = b ∧ newlines = bs := List.cons.inj hbs
    rw [List.append_nil] at hleft
    have hletter : b = ckChar s.acc := by rw [hacc, hleft, hck]
    rw [decodeByte_checksum hd (isUpper_iff.mpr (hletter ▸ ckChar_upper hinv.acc_le)),
      rxChecksum_match hletter]
    exact ⟨_, rfl, .swallow rfl hcount hleft hn, rfl, rfl, rfl⟩
  · obtain ⟨rfl, rfl⟩ : c = b ∧ _ = bs := List.cons.inj hbs
    have hc : isUpper c = false := hp c (hleft ▸ by simp)
    have hroom : s.plen + 1 < s.params.payloadCap := by
      rw [← hleft, List.length_append, List.length_cons, hlen] at hcap
      omega
    refine ⟨_, decodeByte_payload hd hc (by omega) hroom.ne, .payload hd hcount ?_ hn, rfl, rfl, rfl⟩
    rw [← hleft, List.append_cons]
    exact congrArg (· ++ left) (payloadBytes_push s c)

/-- The byte the decoder awaits is taken, and the decoder awaits the rest. -/
theorem step (hinv : StateInv s) (htr : AccTracksFrame s) (hp : ∀ b ∈ p, isUpper b = false)
    (hcap : p.length + 1 ≤ s.params.payloadCap) (hbudget : j < s.params.junkBudget)
    (h : Awaits p j s (b :: bs)) :
    ∃ t, decodeByte b s = .next t ∧ Awaits p j t bs ∧ ByteTaken s t := by
  generalize hbs : b :: bs = all at h
  cases h with
  | seek hd hjunk hcount hn => exact step_seek hd hjunk hcount hbudget hn hbs.symm
  | addrHi hd hcount hn =>
    obtain ⟨rfl, rfl⟩ : b = digitChar (s.addr.toNat / 10) ∧ bs = _ := List.cons.inj hbs
    exact ⟨_, decodeByte_addrHi hd, .addrLo (s := rxAddrHi _ s) rfl hcount rfl hn, rfl, rfl, rfl⟩
  | addrLo hd hcount hdigits hn =>
    obtain ⟨rfl, rfl⟩ := List.cons.inj hbs
    have hempty : payloadBytes s = [] := payloadBytes_of_plen_zero (hinv.plen_zero (.inr (.inr hd)))
    rw [decodeByte_addrLo hd, rxAddrLo_match hdigits]
    exact ⟨_, rfl, .payload rfl hcount (congrArg (· ++ p) hempty) hn, rfl, rfl, rfl⟩
  | payload hd hcount hleft hn => exact step_payload hinv htr hp hcap hd hcount hleft hn hbs.symm
  | swallow hd hcount hall hn =>
    subst hbs
    obtain ⟨hb, hn'⟩ := List.forall_mem_cons.mp hn
    rw [decodeByte_swallow hd, rxSwallow_newline hb]
    exact ⟨_, rfl, .swallow hd hcount hall hn', rfl, rfl, rfl⟩

end Awaits

/-- The whole frame is received at time `e`: the queue is empty, the inputs `rest` are left, and the
decoder waits in SWALLOW for what comes behind the frame. -/
structure FrameReceived (p : List Byte) (j e : Nat) (rest : List Input) (s t : State) : Prop where
  inv : StateInv t
  decSt : t.decSt = .swallow
  junk : t.junk = j
  payload : payloadBytes t = p
  acc : t.acc = accOf (responseBody s.addr p)
  rxQueue : t.rxQueue = []
  inputs : t.inputs = rest
  params : t.params = s.params
  onTime : t.tPrev ≤ e ∧ e < t.lastT + t.params.charTimeout

/-- The bytes the decoder awaits, each arriving and offered in time, complete the frame. -/
theorem run_offers {p bs : List Byte} {j e : Nat} {ts : List Nat} {rest : List Input}
    (hinv : StateInv s) (htr : AccTracksFrame s) (hp : ∀ b ∈ p, isUpper b = false)
    (hcap : p.length + 1 ≤ s.params.payloadCap) (hbudget : j < s.params.junkBudget)
    (h : Awaits p j s bs) (hlen : ts.length = bs.length) (htime : InTime s (ts ++ [e]))
    (hq : s.rxQueue = []) (hi : s.inputs = offers (ts.zip bs) ++ rest) :
    ∃ t, run bs.length s = .next t ∧ FrameReceived p j e rest s t := by
  induction bs generalizing s ts with
  | nil =>
    obtain rfl := List.length_eq_zero_iff.mp hlen
    obtain ⟨hd, hjunk, hpayload⟩ := h.complete
    have hacc := htr.payload (.inr (.inl hd))
    exact ⟨s, rfl, hinv, hd, hjunk, hpayload, hpayload ▸ hacc, hq, hi, rfl, htime.head⟩
  | cons b bs ih =>
    obtain _ | ⟨d, ts⟩ := ts
    · simp at hlen
    obtain ⟨ht, hlt⟩ := htime.head
    have hinv' := hinv.offeredAt h.receiving ht hlt [b] (offers (ts.zip bs) ++ rest)
    have htr' : AccTracksFrame (offeredAt d [b] (offers (ts.zip bs) ++ rest) s) := { htr with }
    obtain ⟨u, hdec, hu, htaken⟩ :=
      (h.offeredAt d [b] (offers (ts.zip bs) ++ rest)).step hinv' htr' hp hcap hbudget
    have hstep : step s = .next u := by
      rw [step_offer hinv h.receiving hi ht hlt (by rw [hq]; rfl), hq]
      exact hdec
    have hparams : u.params = s.params := (decodeByte_params hdec :)
    have haddr : u.addr = s.addr := (decodeByte_addr hdec :)
    obtain ⟨t, hrun, hend⟩ := ih (ts := ts) (everyStepKeepsTheInvariant _ _ hinv hstep)
      (everyStepKeepsTheChecksum _ _ hinv htr hstep) (hparams ▸ hcap) (hparams ▸ hbudget) hu
      (by simpa using hlen) (htime.tail htaken hparams) htaken.rxQueue
      (decodeByte_txSent_inputs hdec).2
    exact ⟨t, (run_succ hstep).trans hrun,
      { hend with acc := haddr ▸ hend.acc, params := hend.params.trans hparams }⟩

/-- A TICK lets time advance and does nothing else (R161). -/
theorem step_tick {d : Nat} {rest : List Input} (hi : s.inputs = ⟨d, [], .tick⟩ :: rest)
    (ht : s.tPrev ≤ d) : step s = .next (advanceTime d { s with inputs := rest }) := by
  rw [step_onTime hi (by simp) ht, atEvent, arrive_nil]
  rfl

/-- Behind the frame RX_NONE enters SETTLE, and a TICK after the settle delay publishes FRAME_OK (R164,
R163, R160); without a delay RX_NONE publishes it. -/
theorem run_settle {e d : Nat} (hinv : StateInv s) (hd : s.decSt = .swallow) (hq : s.rxQueue = [])
    (hi : s.inputs = [⟨e, [], .rxNone⟩, ⟨d, [], .tick⟩])
    (he : s.tPrev ≤ e ∧ e < s.lastT + s.params.charTimeout)
    (hdelay : e + s.params.settleDelay ≤ d) :
    run 2 s = .next { s with
      decSt := .idle, decResult := .frameOk, setT0 := e, tPrev := d, rxQueue := [], inputs := [] } := by
  have hlast := hinv.lastT_le (.inr hd)
  have hat : atEvent ⟨e, [], .rxNone⟩ [⟨d, [], .tick⟩] s = offeredAt e [] [⟨d, [], .tick⟩] s := by
    rw [atEvent_receiving (.inr hd) (by simp only; omega), hq]
    rfl
  have hnone : step s = .next (enterSettle e (offeredAt e [] [⟨d, [], .tick⟩] s)) := by
    rw [step_onTime hi (by simp) he.1, hat]
    exact handle_rxNone_swallow (s := offeredAt e [] [⟨d, [], .tick⟩] s) hd rfl
  have hed : e ≤ d := by omega
  rw [run_succ hnone]
  by_cases hzero : s.params.settleDelay = 0
  · rw [enterSettle_now (s := offeredAt e [] _ s) hzero, run_succ (step_tick rfl hed),
      advanceTime_idle rfl]
    rfl
  · rw [enterSettle_delayed (s := offeredAt e [] _ s) hzero, run_succ (step_tick rfl hed),
      advanceTime_settled rfl (Nat.le_sub_of_add_le' hdelay)]
    rfl

/-- Settles O37: the whole frame is received in time, and then the settle delay passes. -/
theorem decoderRecoversTheFrame : Obligations.DecoderRecoversTheFrame := by
  intro s junk payload newlines ts e d hinv hd hzero hq hjunk hbudget hp hcap hn body bytes hlen hclose
    ht hdelay hi
  have hcomplete : Awaits payload junk.length s bytes := by
    have h := Awaits.seek (s := s) (p := payload) hd hjunk (by rw [hzero, Nat.zero_add])
      fun b hb => isNewline_iff.mpr (hn b hb)
    simpa only [frameEnd, bytes, body, List.append_assoc, List.singleton_append] using h
  obtain ⟨u, hrun, hu⟩ := run_offers hinv (.of_seek (hinv.encPh_idle (by simp [hd])) hd) hp hcap hbudget
    hcomplete hlen (inTime_of_closeFrom hclose ht) hq hi
  have hend := run_settle hu.inv hu.decSt hu.rxQueue hu.inputs hu.onTime (by rwa [hu.params])
  refine ⟨_, (run_add hrun 2).trans hend, rfl, rfl, hu.payload, ?_, hu.junk, rfl, hu.acc⟩
  exact (payloadBytes_length hu.inv).symm.trans (congrArg List.length hu.payload)

end Sys2Proof.Machine
end

section
/-! Illegal words (spec/30_encoding.md R73, spec/43_control.md R198) and the dispatch of a command event
(R190): for each format of the decoder, which words it rejects. -/

namespace Sys2Proof

variable {w : Word}

/-! ### Rejected words -/

theorem flField_eq_zero_iff : flField w = 0 ↔ w.toNat / 256 % 16 = 0 := by
  rw [← flField_toNat]
  exact BitVec.toNat_inj.symm

theorem dField_eq_zero_iff : dField w = 0 ↔ w.toNat % 256 = 0 := by
  rw [← dField_toNat]
  exact BitVec.toNat_inj.symm

/-- The format without operand rejects a bit in FL or D. -/
theorem bareCommand_error_iff {i : Instr} : (∃ e, bareCommand w i = .error e) ↔
    w.toNat / 256 % 16 ≠ 0 ∨ w.toNat % 256 ≠ 0 := by
  rw [Ne, Ne, ← flField_eq_zero_iff, ← dField_eq_zero_iff, ← not_and_or]
  rcases bareCommand_cases w i with ⟨hfl, hd, e⟩ | ⟨h, e⟩
  · exact iff_of_false (by simp [e]) (not_not.mpr ⟨hfl, hd⟩)
  · exact iff_of_true ⟨_, e⟩ h

/-- The byte format rejects a bit in FL. -/
theorem byteCommand_error_iff {i : Byte → Instr} : (∃ e, byteCommand w i = .error e) ↔
    w.toNat / 256 % 16 ≠ 0 := by
  rw [Ne, ← flField_eq_zero_iff]
  rcases byteCommand_cases w i with ⟨hfl, e⟩ | ⟨h, e⟩
  · exact iff_of_false (by simp [e]) (not_not.mpr hfl)
  · exact iff_of_true ⟨_, e⟩ h

/-- ENC_SEND's format rejects a bit of FL above the marker (R74). -/
theorem sendCommand_error_iff : (∃ e, sendCommand w = .error e) ↔ 2 ≤ w.toNat / 256 % 16 := by
  rw [← flField_toNat]
  rcases sendCommand_cases w with ⟨hlt, e⟩ | ⟨h, e⟩
  · exact iff_of_false (by simp [e]) (Nat.not_le.mpr hlt)
  · exact iff_of_true ⟨_, e⟩ h

/-- The words of R73: a reserved opcode, or a bit that the opcode's format rejects. -/
theorem decode_error_iff : (∃ e, decode w = .error e) ↔
    (0xE000 ≤ w.toNat ∨
      (w.toNat / 4096 = 8 ∧ 2 ≤ w.toNat / 256 % 16) ∨
      (w.toNat / 4096 ≠ 8 ∧ w.toNat / 256 % 16 ≠ 0) ∨
      (w.toNat / 4096 ∈ [0x0, 0x1, 0x3, 0x5, 0x6, 0x9, 0xA, 0xB, 0xD] ∧ w.toNat % 256 ≠ 0)) := by
  have hreserved : 0xE000 ≤ w.toNat ↔ 14 ≤ w.toNat / 4096 := by omega
  have hw : w.toNat / 4096 < 16 := opField_toNat w ▸ (opField w).isLt
  rw [hreserved]
  unfold decode
  rw [opField_toNat]
  split
  case h_3 hop | h_5 hop | h_8 hop | h_13 hop => simp [byteCommand_error_iff, hop]
  case h_9 hop => simp [sendCommand_error_iff, hop]
  case h_15 => exact iff_of_true ⟨_, rfl⟩ (.inl (by simp only [imp_false] at *; omega))
  all_goals next hop => simp [bareCommand_error_iff, hop]

end Sys2Proof

namespace Sys2Proof.Machine

/-- Settles O6: the rejected words format by format, and the refusal of `execWord_illegal`. -/
theorem reservedWordsAreRefused : Obligations.ReservedWordsAreRefused :=
  ⟨fun _ => decode_error_iff, fun _ _ s h => execWord_illegal h s⟩

/-! ### Legal words -/

/-- A word that decodes runs its command (R190). -/
theorem execWord_legal {w : Word} {i : Instr} (h : decode w = .ok i) (s : State) :
    execWord w s = exec i s := by
  simp only [execWord, h]

/-- Settles O7: a command event on time is handled in the state at the event, where its word runs. -/
theorem stepRunsTheDecodedCommand : Obligations.StepRunsTheDecodedCommand := by
  intro s x rest w i hi hx ht hw
  have hstep : step s = handle x.event (atEvent x rest s) := step_onTime hi (by simp [hx]) ht
  rw [hstep, hx]
  exact execWord_legal hw _

end Sys2Proof.Machine
end

section
/-! NOP, STAT_RD and ERRC_RD (spec/43_control.md R195 to R197), and STATUS as a number (spec/10_state.md
R38). -/

namespace Sys2Proof.Machine

/-- Settles O42: OP 0 is read in the format without operand, and NOP accepts. -/
theorem nopCommand : Obligations.NopCommand :=
  ⟨onlyWord_of_bareCommand (op := 0) fun w hw => by simp [decode, hw], fun _ => rfl⟩

/-- Settles O44: OP 0xD is read in the format without operand, and the answer is the cause's code. -/
theorem errcRdCommand : Obligations.ErrcRdCommand :=
  ⟨onlyWord_of_bareCommand (op := 0xD) fun w hw => by simp [decode, hw], fun _ => rfl,
    rfl, rfl, rfl, rfl, rfl, rfl⟩

/-! ### STATUS -/

/-- A field above the bits in use is added at its place value. -/
theorem or_shiftLeft_toNat {x y : Byte} {n a : Nat} (hx : x.toNat = a) (ha : a < 2 ^ n)
    (hy : 2 ^ n * y.toNat < 256) : (x ||| y <<< n).toNat = a + 2 ^ n * y.toNat := by
  have hshift : (y <<< n).toNat = y.toNat <<< n := by
    rw [BitVec.toNat_shiftLeft, Nat.shiftLeft_eq, Nat.mul_comm, Nat.mod_eq_of_lt hy]
  rw [BitVec.toNat_or, hshift, hx, Nat.or_comm, ← Nat.shiftLeft_add_eq_or_of_lt ha, Nat.shiftLeft_eq,
    Nat.mul_comm, Nat.add_comm]

theorem bitByte_toNat (b : Bool) : (bitByte b).toNat = b.toNat := by cases b <;> rfl

theorem encResultCode_lt (r : EncResult) : (encResultCode r).toNat < 4 := by cases r <;> decide

theorem decResultCode_lt (r : DecResult) : (decResultCode r).toNat < 8 := by cases r <;> decide

/-- STATUS is the sum of its five fields, each of which ends below the next one (R38). -/
theorem status_toNat (s : State) : (status s).toNat =
    (encBusy s).toNat + 2 * (decBusy s).toNat + 4 * (encResultCode s.encResult).toNat +
      16 * (decResultCode s.decResult).toNat + 128 * s.cmdErr.toNat := by
  have henc := (encBusy s).toNat_lt
  have hdec := (decBusy s).toNat_lt
  have herr := s.cmdErr.toNat_lt
  have hsent := encResultCode_lt s.encResult
  have hreceived := decResultCode_lt s.decResult
  simp only [← bitByte_toNat] at henc hdec herr ⊢
  have hbits01 := or_shiftLeft_toNat (y := bitByte (decBusy s)) (n := 1) rfl henc (by omega)
  have hbits03 := or_shiftLeft_toNat (y := encResultCode s.encResult) (n := 2) hbits01
    (by omega) (by omega)
  have hbits06 := or_shiftLeft_toNat (y := decResultCode s.decResult) (n := 4) hbits03
    (by omega) (by omega)
  exact or_shiftLeft_toNat (n := 7) hbits06 (by omega) (by omega)

theorem encBusy_toNat (s : State) : (encBusy s).toNat = if s.encPh = .idle then 0 else 1 := by
  cases h : s.encPh <;> simp [encBusy, h]

theorem decBusy_toNat (s : State) : (decBusy s).toNat = if s.decSt = .idle then 0 else 1 := by
  cases h : s.decSt <;> simp [decBusy, h]

/-- Settles O43: OP 0xA is read in the format without operand, and the answer is `status_toNat`. -/
theorem statRdCommand : Obligations.StatRdCommand := by
  refine ⟨onlyWord_of_bareCommand (op := 0xA) fun w hw => by simp [decode, hw],
    fun s => ⟨status s, rfl, ?_⟩, rfl, rfl, rfl, rfl, rfl, rfl, rfl, rfl, rfl, rfl⟩
  rw [status_toNat, encBusy_toNat, decBusy_toNat, mul_ite]
  cases s.cmdErr <;> rfl

end Sys2Proof.Machine
end

section
/-! The command report (spec/43_control.md R191 to R193): each command reports the first cause that applies
to it, and a command that reports one does nothing else. -/

namespace Sys2Proof.Machine

variable {i : Instr} {s t : State}

/-- The first cause of R191 that applies to a command; ILLEGAL applies to words only. -/
def commandCause (i : Instr) (s : State) : Cause :=
  if blockedByBusy i s then .busy
  else if !i.wellFormed then .badOperand
  else capacityCause i s

theorem firstCause_legal {w : Word} (h : decode w = .ok i) : firstCause w s = commandCause i s := by
  simp only [firstCause, h, commandCause]

theorem firstCause_illegal {w : Word} {e : Illegal} (h : decode w = .error e) :
    firstCause w s = .illegal := by
  simp only [firstCause, h]

/-- What a command that answers `t` reports: no cause, and the command report is cleared, or a cause, and
the report is all that is written (R193, R13). -/
inductive Reports (s : State) : Cause → State → Prop where
  | accepted (r : Byte) (u : State) : Reports s .none (accept r u)
  | refused {c : Cause} (h : c ≠ .none) : Reports s c (refuse c s)

namespace Reports

theorem busy (hb : blockedByBusy i s = true) : Reports s (commandCause i s) (refuse .busy s) := by
  have hc : commandCause i s = .busy := if_pos hb
  rw [hc]
  exact .refused (by decide)

theorem badOperand (hb : blockedByBusy i s = false) (hw : i.wellFormed = false) :
    Reports s (commandCause i s) (refuse .badOperand s) := by
  have hc : commandCause i s = .badOperand := by simp [commandCause, hb, hw]
  rw [hc]
  exact .refused (by decide)

/-- With neither engine in the way and a legal operand, only the capacity is left to decide. -/
theorem of_capacityCause (hb : blockedByBusy i s = false) (hw : i.wellFormed = true)
    (h : Reports s (capacityCause i s) t) : Reports s (commandCause i s) t := by
  have hc : commandCause i s = capacityCause i s := by simp [commandCause, hb, hw]
  exact hc ▸ h

theorem cmdCause {c : Cause} (h : Reports s c t) : t.cmdCause = c := by cases h <;> rfl

theorem cmdErr_iff {c : Cause} (h : Reports s c t) : t.cmdErr = true ↔ c ≠ .none := by
  cases h with
  | accepted => simp
  | refused hc => simp [hc]

/-- The two ways of R193, written out. -/
theorem cleared_or_refused {c : Cause} (h : Reports s c t) :
    (t.cmdErr = false ∧ t.cmdCause = .none) ∨
    ∃ c, c ≠ .none ∧ t = { s with cmdErr := true, cmdCause := c, resp := 0 } := by
  cases h with
  | accepted => exact .inl ⟨rfl, rfl⟩
  | refused hc => exact .inr ⟨c, hc, rfl⟩

end Reports

/-- Every command but the status reads reports its first cause, guard by guard (R191). -/
theorem exec_reports (hr : readsStatus i = false) (h : exec i s = .next t) :
    Reports s (commandCause i s) t := by
  cases i with
  | statRd | errcRd => simp [readsStatus] at hr
  | nop | accRead | addrRd | plenRd => cases h; exact .accepted _ _
  | accReset =>
    rcases execAccReset_next h with ⟨hb, rfl⟩ | ⟨hb, rfl⟩
    · exact .busy hb
    · exact .of_capacityCause hb rfl (.accepted _ _)
  | accAdd d =>
    rcases execAccAdd_next h with ⟨hb, rfl⟩ | ⟨hb, rfl⟩
    · exact .busy hb
    · exact .of_capacityCause hb rfl (.accepted _ _)
  | addrWr n =>
    rcases execAddrWr_next h with ⟨hb, rfl⟩ | ⟨hb, hn, rfl⟩ | ⟨hb, hn, rfl⟩
    · exact .busy hb
    · exact .badOperand hb hn
    · exact .of_capacityCause hb hn (.accepted _ _)
  | valClr =>
    rcases execValClr_next h with ⟨hb, rfl⟩ | ⟨hb, rfl⟩
    · exact .busy hb
    · exact .of_capacityCause hb rfl (.accepted _ _)
  | valPush c =>
    rcases execValPush_next h with
      ⟨hb, rfl⟩ | ⟨hb, hc, rfl⟩ | ⟨hb, hc, hfull, rfl⟩ | ⟨hb, hc, hlt, rfl⟩
    · exact .busy hb
    · exact .badOperand hb hc
    · have hcap : capacityCause (.valPush c) s = .bufFull := if_pos hfull
      exact .of_capacityCause hb hc (hcap.symm ▸ .refused (by decide))
    · have hcap : capacityCause (.valPush c) s = .none := if_neg hlt.ne
      exact .of_capacityCause hb hc (hcap ▸ .accepted _ _)
  | encSend w c =>
    rcases execEncSend_next h with ⟨hb, rfl⟩ | ⟨hb, hc, rfl⟩ | ⟨hb, hc, rfl⟩
    · exact .busy hb
    · exact .badOperand hb hc
    · exact .of_capacityCause hb hc (.accepted _ _)
  | decStart =>
    rcases execDecStart_next h with ⟨hb, rfl⟩ | ⟨hb, rfl⟩
    · exact .busy hb
    · exact .of_capacityCause hb rfl (.accepted _ _)
  | pbufRd k =>
    rcases execPbufRd_next h with ⟨hk, rfl⟩ | ⟨hk, b, _, rfl⟩
    · have hcap : capacityCause (.pbufRd k) s = .indexRange := if_pos hk
      exact .of_capacityCause rfl rfl (hcap.symm ▸ .refused (by decide))
    · have hcap : capacityCause (.pbufRd k) s = .none := if_neg (Nat.not_le.mpr hk)
      exact .of_capacityCause rfl rfl (hcap ▸ .accepted _ _)

/-- Every word but the status reads reports its first cause: an illegal one ILLEGAL, any other its
command's. -/
theorem execWord_reports {w : Word} (hr : ∀ i, decode w = .ok i → readsStatus i = false)
    (h : execWord w s = .next t) : Reports s (firstCause w s) t := by
  rcases execWord_next h with ⟨i, hi, hx⟩ | ⟨e, he, rfl⟩
  · rw [firstCause_legal hi]
    exact exec_reports (hr i hi) hx
  · rw [firstCause_illegal he]
    exact .refused (by decide)

/-- Settles O46: what `execWord_reports` says of the two registers. -/
theorem firstApplicableCauseIsReported : Obligations.FirstApplicableCauseIsReported :=
  fun _ _ _ hr h => ⟨(execWord_reports hr h).cmdCause, (execWord_reports hr h).cmdErr_iff⟩

/-- STAT_RD and ERRC_RD write RESP only (R193). -/
theorem exec_statusRead (hr : readsStatus i = true) (s : State) :
    ∃ r, exec i s = .next { s with resp := r } := by
  obtain rfl | rfl : i = .statRd ∨ i = .errcRd := by simpa [readsStatus] using hr
  · exact ⟨status s, rfl⟩
  · exact ⟨causeCode s.cmdCause, rfl⟩

/-- Settles O47: the two arms of `Reports`, the status reads, and the illegal words. -/
theorem commandErrorUpdate : Obligations.CommandErrorUpdate :=
  ⟨fun _ _ _ hr h => (exec_reports hr h).cleared_or_refused, fun _ s hr => exec_statusRead hr s,
    fun _ _ s h => execWord_illegal h s⟩

end Sys2Proof.Machine
end

section
/-! The results of the two engines (spec/10_state.md R46, spec/60_exceptions.md R218): a result stands only
while its engine is idle, and an idle engine writes its result at its next start only. -/

namespace Sys2Proof.Machine

variable {s t : State}

/-! ### DEC_RESULT -/

/-- A result of the decoder stands only while the decoder is idle (R45). -/
theorem StateInv.decSt_idle_of_decResult (h : StateInv s) (hr : s.decResult ≠ .none) :
    s.decSt = .idle := by
  by_contra hd
  exact hr (h.decResult_none (decBusy_eq_true.mpr hd))

/-- No timer runs in IDLE: the event finds the same state, with the time and the transport moved on. -/
theorem atEvent_idle {x : Input} {rest : List Input} (hd : s.decSt = .idle) : atEvent x rest s =
    { s with tPrev := x.time, rxQueue := s.rxQueue ++ x.arrived, inputs := rest } :=
  advanceTime_idle (s := arrive x.arrived { s with inputs := rest }) hd x.time

/-- An idle decoder takes no byte (R157). -/
theorem decodeByte_idle (hd : s.decSt = .idle) (b : Byte) : decodeByte b s = .next s := by
  simp only [decodeByte, hd]

/-- While the decoder is idle, an event's own rule (R91 step 4) other than RESET writes DEC_RESULT at
DEC_START only. -/
theorem handle_decResult {e : Event} (h : handle e s = .next t) (he : e ≠ .reset)
    (hd : s.decSt = .idle) : t.decResult = s.decResult ∨
      (∃ w, e = .cmd w ∧ decode w = .ok .decStart) ∧ t.decResult = .none := by
  rcases handle_attempt he h with
    ⟨hsame, _⟩ | ⟨hsame, _⟩ | ⟨w, hw, hi, _, rfl⟩ | ⟨b, _, _, hb⟩ | ⟨_, hswallow, _⟩
  · exact .inl (attempt_eq_iff.mp hsame).2.1
  · exact .inl (attempt_eq_iff.mp hsame).2.1
  · exact .inr ⟨⟨w, hw, hi⟩, rfl⟩
  · rw [decodeByte_idle hd] at hb
    cases hb
    exact .inl rfl
  · simp [hd] at hswallow

/-! ### ENC_RESULT -/

/-- A result of the encoder stands only while the encoder is idle (R45). -/
theorem StateInv.encPh_idle_of_encResult (h : StateInv s) (hr : s.encResult ≠ .none) :
    s.encPh = .idle := by
  by_contra hp
  exact hr (h.encResult_none (encBusy_eq_true.mpr hp))

@[simp] theorem atEvent_encResult {x : Input} {rest : List Input} :
    (atEvent x rest s).encResult = s.encResult := advanceTime_encResult _ _

/-- Of the commands only ENC_SEND writes ENC_RESULT, and only where it starts a frame (R130). -/
theorem exec_encResult {i : Instr} (h : exec i s = .next t) : t.encResult = s.encResult ∨
    (∃ v c, i = .encSend v c) ∧ t.encResult = .none := by
  cases i with
  | encSend v c =>
    rcases execEncSend_next h with ⟨_, rfl⟩ | ⟨_, _, rfl⟩ | ⟨_, _, rfl⟩
    · exact .inl rfl
    · exact .inl rfl
    · exact .inr ⟨⟨v, c, rfl⟩, rfl⟩
  | nop | accRead | addrRd | statRd | plenRd | errcRd => cases h; exact .inl rfl
  | accReset => rcases execAccReset_next h with ⟨_, rfl⟩ | ⟨_, rfl⟩ <;> exact .inl rfl
  | accAdd d => rcases execAccAdd_next h with ⟨_, rfl⟩ | ⟨_, rfl⟩ <;> exact .inl rfl
  | addrWr n => rcases execAddrWr_next h with ⟨_, rfl⟩ | ⟨_, _, rfl⟩ | ⟨_, _, rfl⟩ <;> exact .inl rfl
  | valClr => rcases execValClr_next h with ⟨_, rfl⟩ | ⟨_, rfl⟩ <;> exact .inl rfl
  | valPush c =>
    rcases execValPush_next h with ⟨_, rfl⟩ | ⟨_, _, rfl⟩ | ⟨_, _, _, rfl⟩ | ⟨_, _, _, rfl⟩ <;>
      exact .inl rfl
  | decStart => rcases execDecStart_next h with ⟨_, rfl⟩ | ⟨_, rfl⟩ <;> exact .inl rfl
  | pbufRd k => rcases execPbufRd_next h with ⟨_, rfl⟩ | ⟨_, _, _, rfl⟩ <;> exact .inl rfl

/-- The decoder publishes no result of the encoder, whatever its state. -/
theorem decodeByte_encResult {b : Byte} (h : decodeByte b s = .next t) :
    t.encResult = s.encResult := by
  rcases decodeByte_next h with
    ⟨_, rfl⟩ | ⟨_, rfl⟩ | ⟨_, rfl⟩ | ⟨_, rfl⟩ | ⟨_, _, rfl⟩ | ⟨_, _, hp⟩ | ⟨_, rfl⟩
  case inl => rfl
  case inr.inl => rcases rxSeek_cases b s with ⟨_, e⟩ | ⟨_, _, e⟩ | ⟨_, _, e⟩ <;> rw [e]
  case inr.inr.inl => rfl
  case inr.inr.inr.inl => rcases rxAddrLo_cases b s with ⟨_, e⟩ | ⟨_, e⟩ <;> rw [e]
  case inr.inr.inr.inr.inl => rcases rxChecksum_cases b s with ⟨_, e⟩ | ⟨_, e⟩ <;> rw [e]
  case inr.inr.inr.inr.inr.inl =>
    rcases rxPayloadByte_cases b s with ⟨_, _, e⟩ | ⟨_, _, e⟩ | ⟨_, e⟩ <;> rw [e] at hp <;> cases hp <;> rfl
  case inr.inr.inr.inr.inr.inr => rcases rxSwallow_cases b s with ⟨_, e⟩ | ⟨_, e⟩ <;> simp [e]

/-- While the encoder is idle, an event's own rule (R91 step 4) other than RESET writes ENC_RESULT at
ENC_SEND only: no byte is offered that a TX_ACK could end the frame with (R92). -/
theorem handle_encResult {e : Event} (h : handle e s = .next t) (he : e ≠ .reset)
    (hp : s.encPh = .idle) : t.encResult = s.encResult ∨
      (∃ w v c, e = .cmd w ∧ decode w = .ok (.encSend v c)) ∧ t.encResult = .none := by
  cases e with
  | cmd w =>
    rcases execWord_next h with ⟨i, hw, hi⟩ | ⟨_, _, rfl⟩
    · rcases exec_encResult hi with hsame | ⟨⟨v, c, rfl⟩, hnone⟩
      · exact .inl hsame
      · exact .inr ⟨⟨w, v, c, rfl, hw⟩, hnone⟩
    · exact .inl rfl
  | txAck ok =>
    cases ok with
    | true => cases (txAckOk_idle hp).symm.trans h
    | false => cases (txAckFail_idle hp).symm.trans h
  | rxOffer b => exact .inl (decodeByte_encResult (rxOffer_next h).2)
  | rxNone =>
    obtain ⟨_, ⟨_, rfl⟩ | ⟨_, rfl⟩⟩ := rxNone_next h
    · exact .inl (enterSettle_encResult _ s)
    · exact .inl rfl
  | tick => cases h; exact .inl rfl
  | reset => exact absurd rfl he

/-! ### Every step -/

/-- Settles O59: by the invariant the engine whose result stands is idle, the arrival of bytes and the timer
phase leave it so, and then only its start or RESET writes the result. -/
theorem resultsStayUntilTheNextTransaction : Obligations.ResultsStayUntilTheNextTransaction := by
  intro s t hinv h
  rcases step_cases h with ⟨_, rfl⟩ | ⟨x, rest, hi, ⟨hreset, rfl⟩ | ⟨hreset, _, hx⟩⟩
  · exact ⟨fun _ hne => absurd rfl hne, fun _ hne => absurd rfl hne⟩
  · exact ⟨fun _ _ => ⟨x, rest, hi, .inl hreset, rfl⟩, fun _ _ => ⟨x, rest, hi, .inl hreset, rfl⟩⟩
  have hevent : handle x.event (atEvent x rest s) = .next t := hx
  constructor
  · intro hr hne
    have hd := hinv.decSt_idle_of_decResult hr
    rw [atEvent_idle hd] at hevent
    rcases handle_decResult hevent hreset hd with hsame | ⟨hstart, hnone⟩
    · exact absurd hsame hne
    · exact ⟨x, rest, hi, .inr hstart, hnone⟩
  · intro hr hne
    have hp := hinv.encPh_idle_of_encResult hr
    rcases handle_encResult hevent hreset (atEvent_encPh.trans hp) with hsame | ⟨hstart, hnone⟩
    · exact absurd (hsame.trans atEvent_encResult) hne
    · exact ⟨x, rest, hi, .inr hstart, hnone⟩

end Sys2Proof.Machine
end

section
/-! The busy interlock (spec/70_reset_and_hazards.md R250): the commands of its table are refused in the
states it names, and only BUSY's own guard reports BUSY. -/

namespace Sys2Proof.Machine

variable {i : Instr} {s : State}

/-- A command the table blocks stops at its first guard: the encoder's for the value buffer, either engine's
for the others. -/
theorem exec_blockedByBusy (h : blockedByBusy i s = true) : exec i s = .next (refuse .busy s) := by
  cases i with
  | accReset => exact exec_accReset_busy h
  | accAdd d => exact exec_accAdd_busy d h
  | addrWr n => exact exec_addrWr_busy n h
  | valClr => exact exec_valClr_busy h
  | valPush c => exact exec_valPush_busy c h
  | encSend w c => exact exec_encSend_busy w c h
  | decStart => exact exec_decStart_busy h
  | nop | accRead | addrRd | statRd | errcRd | plenRd | pbufRd => simp [blockedByBusy] at h

/-- The capacity of a buffer is never reported as BUSY. -/
theorem capacityCause_ne_busy (i : Instr) (s : State) : capacityCause i s ≠ .busy := by
  cases i with
  | valPush | pbufRd => simp only [capacityCause]; split <;> decide
  | nop | accReset | accAdd | accRead | addrWr | addrRd | valClr | encSend | decStart | statRd | plenRd
  | errcRd => simp [capacityCause]

/-- BUSY is the first cause exactly where the table blocks the command. -/
theorem commandCause_busy_iff : commandCause i s = .busy ↔ blockedByBusy i s = true := by
  unfold commandCause
  split
  · next hblocked => simp [hblocked]
  · next hfree =>
    split
    · simp [hfree]
    · simp [hfree, capacityCause_ne_busy]

/-- Settles O45: a blocked command stops at its guard, and any other reports its first cause, which is not
BUSY. -/
theorem busyInterlockTable : Obligations.BusyInterlockTable := by
  refine fun i s => ⟨exec_blockedByBusy, fun hfree hr t h hbusy => ?_⟩
  have hblocked := commandCause_busy_iff.mp ((exec_reports hr h).cmdCause.symm.trans hbusy)
  exact Bool.false_ne_true (hfree.symm.trans hblocked)

end Sys2Proof.Machine
end

section
/-! RESET as an event, and what the reset block answers (spec/70_reset_and_hazards.md R240, R241). -/

namespace Sys2Proof.Machine

/-- Nothing was written to an empty buffer (R44). -/
@[simp] theorem Memory.read_nil (i : Nat) : Memory.read [] i = none := rfl

/-- RESET_ADDR fits ADDR's seven bits (R7). -/
theorem resetAddr_toNat {p : Params} (hp : p.wf = true) :
    (BitVec.ofNat 7 p.resetAddr).toNat = p.resetAddr := by
  obtain ⟨_, _, _, _, _, hhi⟩ := Params.wf_iff.mp hp
  rw [BitVec.toNat_ofNat, Nat.mod_eq_of_lt (by omega)]

/-- A step whose next event is RESET does nothing but reset the block beside the bytes that arrived. -/
theorem step_reset {s : State} {x : Input} {rest : List Input} (hi : s.inputs = x :: rest)
    (hx : x.event = .reset) : step s = .next (hardReset (arrive x.arrived { s with inputs := rest })) :=
  (step_cons hi).trans (processInput_reset hx)

/-- Settles O49: the registers of `hardReset`, the empty buffers, and the address, which fits. -/
theorem resetEvent : Obligations.ResetEvent := by
  intro s t arrived rest hi hp
  refine ⟨_, step_reset hi rfl, ?_⟩
  simp [resetAddr_toNat hp]

/-- After reset both engines are idle with no result and no command error, so every field of STATUS is 0. -/
theorem status_resetWith (p : Params) : status (State.resetWith p) = 0x00 :=
  BitVec.eq_of_toNat_eq ((status_toNat _).trans rfl)

/-- After reset no command error stands, so accepting a command clears nothing. -/
theorem accept_resetWith (r : Byte) (p : Params) :
    accept r (State.resetWith p) = { State.resetWith p with resp := r } := rfl

/-- Settles O50: the three reads answer STATUS, the letter of ACC = 0 and the address. -/
theorem afterResetTheBlockIsIdle : Obligations.AfterResetTheBlockIsIdle := by
  intro p hp
  have hstat : exec .statRd (State.resetWith p) =
      .next (acceptQuietly (status (State.resetWith p)) (State.resetWith p)) := rfl
  have hacc : exec .accRead (State.resetWith p) = .next (accept (ckChar 0) (State.resetWith p)) := rfl
  obtain ⟨r, hr, haddr⟩ := addrRdCommand.2 (State.resetWith p)
  refine ⟨?_, ?_, r, hr.trans (resetAddr_toNat hp), haddr⟩
  · rw [hstat, status_resetWith, acceptQuietly]
  · rw [hacc, accept_resetWith, show ckChar 0 = 0x41 by decide]

end Sys2Proof.Machine
end
